-- ==== Sys2Proof/Word.lean ====
section
/-! DEFINITION. The two widths of this hardware (spec/00_scope.md R2): bytes and 16-bit words.
Both are bit vectors, because every value of these widths is added, masked or shifted by some rule. -/

namespace Sys2Proof

/-- A data byte: a general register, a memory byte, an immediate, a port number (R2, R10). -/
abbrev Byte := BitVec 8

/-- A 16-bit word: `SP`, `PC`, a register pair, a memory address (R2, R11, R13, R14). -/
abbrev Word := BitVec 16

end Sys2Proof
end

