-- ==== Sys2Proof/Machine/Alu.lean ====
section
/-! DEFINITION. The ALU functions (spec/40_execution_model.md R106 to R111): pure, computed exactly on natural
numbers and then reduced to their width. -/

namespace Sys2Proof.Machine

/-- `add8` (R106): the sum and the carry out of bit 7. -/
def add8 (a b : Byte) : Byte × Bool :=
  (BitVec.ofNat 8 (a.toNat + b.toNat), decide (256 ≤ a.toNat + b.toNat))

/-- `sub8` (R107, decision D8, log entry 15): `a + (255 - b) + 1` without truncating the intermediate; the
second component is the borrow, the negation of the raw carry. -/
def sub8 (a b : Byte) : Byte × Bool :=
  (BitVec.ofNat 8 (a.toNat + (255 - b.toNat) + 1), !decide (256 ≤ a.toNat + (255 - b.toNat) + 1))

/-- `inc8` (R108). -/
def inc8 (a : Byte) : Byte := BitVec.ofNat 8 (a.toNat + 1)

/-- `dec8` (R108). -/
def dec8 (a : Byte) : Byte := BitVec.ofNat 8 (a.toNat + 255)

/-- `and8` (R109). -/
def and8 (a b : Byte) : Byte := a &&& b

/-- `xor8` (R109). -/
def xor8 (a b : Byte) : Byte := a ^^^ b

/-- `rrc8` (R110): the rotated byte and the bit rotated out. -/
def rrc8 (a : Byte) : Byte × Bool :=
  (BitVec.ofNat 8 (a.toNat / 2 + (a.toNat % 2) * 128), decide (a.toNat % 2 = 1))

/-- `add16` (R111): the sum and the carry out of bit 15. -/
def add16 (x y : Word) : Word × Bool :=
  (BitVec.ofNat 16 (x.toNat + y.toNat), decide (65536 ≤ x.toNat + y.toNat))

/-- `inc16` (R111). -/
def inc16 (x : Word) : Word := BitVec.ofNat 16 (x.toNat + 1)

/-- `dec16` (R111). -/
def dec16 (x : Word) : Word := BitVec.ofNat 16 (x.toNat + 65535)

end Sys2Proof.Machine
end

