-- ==== Sys2Proof/Config.lean ====
section
/-! DEFINITION. The open parameters of the hardware (spec/00_scope.md R3), as types of plain data that
State carries, and the two values the spec leaves free (constants with no body). -/

namespace Sys2Proof

/-- The encoded length of an instruction record, in bytes (spec/30_encoding.md R70, R75). -/
inductive Len where
  | one | two | three
  deriving DecidableEq, Repr, Inhabited

/-- The three classes of a memory address (spec/20_memory.md R41). -/
inductive MemClass where
  /-- inside a read/write region -/
  | rw
  /-- inside a read-only region: writes are ignored (R43) -/
  | ro
  /-- outside every region: any access is an `AddressFault` (R42, R43) -/
  | unmapped
  deriving DecidableEq, Repr

/-- One region of the memory map: the addresses `base ≤ a < base + size` and their class (R41). -/
structure Region where
  base : Nat
  size : Nat
  cls  : MemClass
  deriving DecidableEq, Repr

/-- The direction of an I/O access (spec/20_memory.md R50, R51). -/
inductive IoDir where
  | read | write
  deriving DecidableEq, Repr

/-- Which ports the platform does NOT implement, for each direction (`IoMap`, R3 (c), R50).
A port that stands in neither list is implemented both ways. -/
structure IoMap where
  absentReads  : List Byte
  absentWrites : List Byte
  deriving DecidableEq, Repr

/-- One completed access of the I/O interface (R51): `read port answer` or `write port value`. -/
inductive IoAccess where
  | read  (port value : Byte)
  | write (port value : Byte)
  deriving DecidableEq, Repr

/-- `ERROR_POLICY` (spec/40_execution_model.md R102): what happens after a recoverable error. -/
inductive ErrorPolicy where
  /-- the machine stops at the first error and the platform sees its kind -/
  | halt
  /-- the spec's `continue`: the platform goes on requesting cycles -/
  | proceed
  deriving DecidableEq, Repr

/-- The platform's parameters (R3): fixed for the life of the machine (R41), so no step writes them. -/
structure Params where
  /-- `PROG_LEN`: a natural number, not bounded by 65535 (R3 (a), R44) -/
  progLen     : Nat
  /-- `MemMap` as a list of regions: the first region that holds an address gives its class, and an
  address in none is unmapped (R41) -/
  regions     : List Region
  /-- `IoMap`, the part that says which ports exist (R50) -/
  io          : IoMap
  errorPolicy : ErrorPolicy
  deriving DecidableEq, Repr

/-- `UNIMPL_LEN` (spec/30_encoding.md R79, decision D11): the length reported for an unimplemented
opcode byte. FREE VALUE: the spec allows 1, 2 or 3 and fixes none; DESIGN CHOICE, log entry 3. -/
opaque Config.unimplLen : Byte → Len

/-- The byte a device answers to a read of a port, when State's queue of answers is empty
(spec/20_memory.md R51, U4): any function of the accesses made so far and the port.
FREE VALUE: the core does not determine it; log entry 4. -/
opaque Config.portAnswer : List IoAccess → Byte → Byte

end Sys2Proof
end

