-- ==== Sys2Proof/Syntax.lean ====
section
/-! DEFINITION. The instruction record of spec/30_encoding.md R75 as syntax: designators, payload, the
34 mnemonics of spec/opcode_table.json (33 implemented and `UNIMPL`), each with the record's fields.

An `Instr` can be ill-formed, because the platform may hand the interrupt controller any record
(spec/60_exceptions.md R270): every constructor carries both designators, present or absent, the payload and
the length unchecked, and WellFormed.lean states which of them the decoder can produce. -/

namespace Sys2Proof

/-- The operand designators (spec/10_state.md R22). `b`, `d`, `h` also name the pairs B:C, D:E, H:L;
`m` is memory at H:L; `PC` is never a designator. -/
inductive Reg where
  | a | b | c | d | e | h | l | m | sp
  deriving DecidableEq, Repr

/-- The record's payload: 0, 1 or 2 operand bytes (R75). -/
inductive Payload where
  | none
  | d8  (v : Byte)
  | d16 (v : Word)
  deriving DecidableEq, Repr

/-- An instruction record beside its mnemonic (R75): two designators, each present or absent, the payload and
the encoded length. One-operand forms have `r1` alone; `MOV` has its destination in `r1` and its source in `r2`.
`len` advances `PC` for an ordinary instruction and is unused in interrupt mode (spec/40_execution_model.md
R103). -/
structure Fields where
  r1   : Option Reg
  r2   : Option Reg
  data : Payload
  len  : Len
  deriving DecidableEq, Repr

/-- What a record of a one-operand form has beside its mnemonic and `r1`; its `r2` is superfluous. -/
structure Rest1 where
  r2   : Option Reg
  data : Payload
  len  : Len
  deriving DecidableEq, Repr

/-- What a `MOV` record has beside its mnemonic and both designators. -/
structure Rest2 where
  data : Payload
  len  : Len
  deriving DecidableEq, Repr

/-- A record of `UNIMPL(b)`: its opcode byte, and the record's fields, of which no rule reads any but `len`
(R80, R103, R261). -/
structure UnimplRest where
  byte   : Byte
  fields : Fields
  deriving DecidableEq, Repr

/-- No superfluous designator. -/
abbrev Fields.bare (data : Payload) (len : Len) : Fields := ⟨none, none, data, len⟩

/-- No superfluous designator. -/
abbrev Rest1.bare (data : Payload) (len : Len) : Rest1 := ⟨none, data, len⟩

/-- An instruction record (R75): a mnemonic and the record's fields, unchecked. One constructor per mnemonic of
spec/opcode_table.json, in the table's order. -/
inductive Instr where
  | nop  (f : Fields)
  | lxi  (r1 : Option Reg) (rest : Rest1)
  | inx  (r1 : Option Reg) (rest : Rest1)
  | inr  (r1 : Option Reg) (rest : Rest1)
  | dcr  (r1 : Option Reg) (rest : Rest1)
  | mvi  (r1 : Option Reg) (rest : Rest1)
  | dad  (r1 : Option Reg) (rest : Rest1)
  | ldax (r1 : Option Reg) (rest : Rest1)
  | dcx  (r1 : Option Reg) (rest : Rest1)
  | rrc  (f : Fields)
  | sta  (f : Fields)
  | lda  (f : Fields)
  /-- destination first, then source (R75, R144) -/
  | mov  (r1 r2 : Option Reg) (rest : Rest2)
  | add  (r1 : Option Reg) (rest : Rest1)
  | sub  (r1 : Option Reg) (rest : Rest1)
  | ana  (r1 : Option Reg) (rest : Rest1)
  | xra  (r1 : Option Reg) (rest : Rest1)
  | pop  (r1 : Option Reg) (rest : Rest1)
  | jnz  (f : Fields)
  | jmp  (f : Fields)
  | push (r1 : Option Reg) (rest : Rest1)
  | adi  (f : Fields)
  | ret  (f : Fields)
  | jz   (f : Fields)
  | call (f : Fields)
  | jnc  (f : Fields)
  | out  (f : Fields)
  | sui  (f : Fields)
  /-- `IN` (the bare word is Lean's own) -/
  | inp  (f : Fields)
  | ani  (f : Fields)
  | xchg (f : Fields)
  | ei   (f : Fields)
  | cpi  (f : Fields)
  /-- `UNIMPL(b)`: an opcode byte outside the implemented set (R75, R78) -/
  | unimpl (u : UnimplRest)
  deriving DecidableEq, Repr

/-- The decoder's output, and what the interrupt controller holds (R75): an `Instr` is the whole record. -/
abbrev Record := Instr

/-- The fields of a record. -/
def Instr.fields : Instr → Fields
  | .nop f | .rrc f | .sta f | .lda f | .jnz f | .jmp f | .adi f | .ret f | .jz f | .call f
  | .jnc f | .out f | .sui f | .inp f | .ani f | .xchg f | .ei f | .cpi f => f
  | .lxi r1 rest | .inx r1 rest | .inr r1 rest | .dcr r1 rest | .mvi r1 rest | .dad r1 rest
  | .ldax r1 rest | .dcx r1 rest | .add r1 rest | .sub r1 rest | .ana r1 rest | .xra r1 rest
  | .pop r1 rest | .push r1 rest => ⟨r1, rest.r2, rest.data, rest.len⟩
  | .mov r1 r2 rest => ⟨r1, r2, rest.data, rest.len⟩
  | .unimpl u => u.fields

end Sys2Proof
end

