-- ==== Sys2Proof/Machine/State.lean ====
section
/-! DEFINITION. Everything the spec gives the machine, as plain data: the register file, the flags, the
interrupt-enable latch, the interrupt controller's slot, memory, the platform's parameters, what the
platform does next, and what the core has told the platform. -/

namespace Sys2Proof.Machine

/-- The six error kinds (spec/60_exceptions.md R260), each with the information it carries.
Under `ErrorPolicy.halt` each of them stops the machine: safe, since the spec says the machine stops and
the faulted state is never a final state (R102; log entry 16). Under `ErrorPolicy.proceed` only `addressFault`
does. -/
inductive Fault where
  /-- Raised by `UNIMPL(b)`, check (i) of R105 (R261). Safe. -/
  | unimplementedInstruction (byte : Byte)
  /-- Raised when the payload is not of the kind the mnemonic requires, check (ii) (R264). Safe. -/
  | invalidInstructionData (rec : Record)
  /-- Raised when a designator is not allowed for the mnemonic, check (iii) (R262). Safe. -/
  | unsupportedRegister (rec : Record)
  /-- Raised when `SP` is named where an 8-bit value is read, check (iii) (R263). Safe. -/
  | registerNot8Bit (rec : Record)
  /-- Raised by `IN` and `OUT` on a port the platform does not implement (R266). Safe. -/
  | unsupportedPort (port : Byte) (dir : IoDir)
  /-- Raised by any access to an unmapped address; terminal whatever the policy (R265). Safe. -/
  | addressFault (addr : Word)
  deriving DecidableEq, Repr

/-- The only refusal: an instruction of the opcode table that has no meaning in this model. Safe.
No arm of `exec` raises it. -/
inductive Refusal where
  | notModelled (mnemonic : String)
  deriving DecidableEq, Repr

/-- The four condition flags (spec/10_state.md R16). -/
structure Flags where
  s  : Bool
  z  : Bool
  p  : Bool
  cy : Bool
  deriving DecidableEq, Repr

/-- What the block answers to the platform's last request (spec/00_scope.md R6 (d)). -/
inductive Answer where
  | ok
  | ended
  | error (e : Fault)
  deriving DecidableEq, Repr

/-- A move of the platform between cycles (spec/40_execution_model.md R114, spec/20_memory.md R59,
spec/70_reset_and_hazards.md R300). -/
inductive PlatformMove where
  /-- request one `CYCLE()` (`step` or `try_step`, R100) -/
  | cycle
  /-- request `RUN()` (`run` or `try_run`, R101) -/
  | run
  /-- `generate(rec)` on the interrupt controller (R270) -/
  | generate (rec : Record)
  /-- the platform writes a byte of its own memory (R59) -/
  | poke (addr : Word) (v : Byte)
  /-- the platform resets the machine again (R300) -/
  | reset
  deriving DecidableEq, Repr

/-- Memory as a list of (address, byte) pairs in the canonical form of `Memory.wf` (Ops.lean). -/
abbrev Memory := List Host.Cell

structure State where
  /-- `A`, the accumulator (R10) -/
  a : Byte
  b : Byte
  c : Byte
  d : Byte
  e : Byte
  h : Byte
  l : Byte
  /-- the stack pointer (R13) -/
  sp : Word
  /-- the program counter (R14) -/
  pc : Word
  flags : Flags
  /-- `INTE`, the interrupt-enable latch (R18) -/
  inte : Bool
  /-- `IC.pending`, the interrupt controller's slot (R19) -/
  pending : Option Record
  mem : Memory
  /-- the platform's parameters (R3); no step writes them -/
  params : Params
  /-- what the platform does next, oldest first; when it is empty the platform requests a cycle (the
  model's own field, log entry 5) -/
  moves : List PlatformMove
  /-- the bytes the devices will answer to coming port reads, oldest first (the model's own field,
  log entry 4) -/
  inputs : List Byte
  /-- every I/O access made so far, oldest first (the model's own field, log entry 4) -/
  ioTrace : List IoAccess
  /-- the block's answer to the last request (R6 (d)); `none` before the first (log entry 7) -/
  answer : Option Answer
  deriving DecidableEq, Repr

/-- The outcome of one instruction or one step. -/
abbrev Result := Host.Outcome State Fault Refusal

/-- The state after reset (spec/10_state.md R25, spec/70_reset_and_hazards.md R300 to R303). The platform's
parameters, which no rule fixes, are DESIGN CHOICES: log entries 1, 2, 6 and 7. -/
def State.reset : State where
  a := 0
  b := 0
  c := 0
  d := 0
  e := 0
  h := 0
  l := 0
  sp := 0
  pc := 0
  flags := { s := false, z := false, p := false, cy := false }
  inte := true
  pending := none
  mem := []
  params :=
    { progLen := 0
      regions := [{ base := 0, size := 65536, cls := .rw }]
      io := { absentReads := [], absentWrites := [] }
      errorPolicy := .halt }
  moves := []
  inputs := []
  ioTrace := []
  answer := none

/-! ## Named updates -/

def State.setA (s : State) (v : Byte) : State := { s with a := v }
def State.setB (s : State) (v : Byte) : State := { s with b := v }
def State.setC (s : State) (v : Byte) : State := { s with c := v }
def State.setD (s : State) (v : Byte) : State := { s with d := v }
def State.setE (s : State) (v : Byte) : State := { s with e := v }
def State.setH (s : State) (v : Byte) : State := { s with h := v }
def State.setL (s : State) (v : Byte) : State := { s with l := v }
def State.setSp (s : State) (v : Word) : State := { s with sp := v }
def State.setPc (s : State) (v : Word) : State := { s with pc := v }
def State.setFlags (s : State) (v : Flags) : State := { s with flags := v }
def State.setInte (s : State) (v : Bool) : State := { s with inte := v }
def State.setPending (s : State) (v : Option Record) : State := { s with pending := v }
def State.setMem (s : State) (v : Memory) : State := { s with mem := v }
def State.setMoves (s : State) (v : List PlatformMove) : State := { s with moves := v }
def State.setInputs (s : State) (v : List Byte) : State := { s with inputs := v }
def State.setIoTrace (s : State) (v : List IoAccess) : State := { s with ioTrace := v }
def State.setAnswer (s : State) (v : Option Answer) : State := { s with answer := v }

end Sys2Proof.Machine
end

