-- ==== Sys2Proof/Machine/Flags.lean ====
section
/-! DEFINITION. The flags model (spec/40_execution_model.md R112, R113). -/

namespace Sys2Proof.Machine

/-- The number of bits of `v` that are 1 (spec/00_scope.md section 6). -/
def popcount (v : Byte) : Nat :=
  v.toNat % 2 + v.toNat / 2 % 2 + v.toNat / 4 % 2 + v.toNat / 8 % 2 + v.toNat / 16 % 2 +
    v.toNat / 32 % 2 + v.toNat / 64 % 2 + v.toNat / 128 % 2

/-- `SetSZP(v)` (R112): writes `S`, `Z`, `P` from the byte `v`, and nothing else. -/
def setSZP (v : Byte) (f : Flags) : Flags :=
  { s := decide (128 ≤ v.toNat), z := decide (v = 0), p := decide (popcount v % 2 = 0), cy := f.cy }

/-- Write `CY` alone. -/
def setCY (cy : Bool) (f : Flags) : Flags := { f with cy := cy }

/-- The flags of an instruction that writes all four (R113). -/
def setSZPC (v : Byte) (cy : Bool) (f : Flags) : Flags := setCY cy (setSZP v f)

end Sys2Proof.Machine
end

