-- ==== Sys2Proof/WellFormed.lean ====
section
/-! DEFINITION. Well-formed records: the table of spec/30_encoding.md R80. -/

namespace Sys2Proof

/-- `{A, B, C, D, E, H, L, M}`: the designators of an 8-bit operand (R72, R80). -/
def Reg.isOperand8 : Reg → Bool
  | .a | .b | .c | .d | .e | .h | .l | .m => true
  | .sp => false

/-- `{B, D, H, SP}`: the designators of a 16-bit operand (R73, R80). -/
def Reg.isOperand16 : Reg → Bool
  | .b | .d | .h | .sp => true
  | .a | .c | .e | .l | .m => false

/-- `{B, D, H}`: the designators of `PUSH` and `POP` (R80). -/
def Reg.isStackOperand : Reg → Bool
  | .b | .d | .h => true
  | .a | .c | .e | .l | .m | .sp => false

/-- `{B, D}`: the designators of `LDAX` (R80). -/
def Reg.isIndexOperand : Reg → Bool
  | .b | .d => true
  | .a | .c | .e | .h | .l | .m | .sp => false

def Payload.isNone : Payload → Bool
  | .none => true
  | .d8 _ | .d16 _ => false

def Payload.isD8 : Payload → Bool
  | .d8 _ => true
  | .none | .d16 _ => false

def Payload.isD16 : Payload → Bool
  | .d16 _ => true
  | .none | .d8 _ => false

/-- The 95 opcode bytes outside the implemented set, as the table of R78 lists them. -/
def unimplementedBytes : List Byte :=
  [0x02, 0x12, 0x07, 0x17, 0x1F, 0x22, 0x2A, 0x27, 0x2F, 0x37, 0x3F, 0x76] ++
  [0x88, 0x89, 0x8A, 0x8B, 0x8C, 0x8D, 0x8E, 0x8F] ++
  [0x98, 0x99, 0x9A, 0x9B, 0x9C, 0x9D, 0x9E, 0x9F] ++
  [0xB0, 0xB1, 0xB2, 0xB3, 0xB4, 0xB5, 0xB6, 0xB7] ++
  [0xB8, 0xB9, 0xBA, 0xBB, 0xBC, 0xBD, 0xBE, 0xBF] ++
  [0xCE, 0xDE, 0xEE, 0xF6] ++
  [0xC7, 0xCF, 0xD7, 0xDF, 0xE7, 0xEF, 0xF7, 0xFF] ++
  [0xC0, 0xC8, 0xD0, 0xD8, 0xE0, 0xE8, 0xF0, 0xF8] ++
  [0xC4, 0xCC, 0xD4, 0xDC, 0xE4, 0xEC, 0xF4, 0xFC] ++
  [0xDA, 0xE2, 0xEA, 0xF2, 0xFA, 0xE3, 0xE9, 0xF9, 0xF3, 0xF1, 0xF5] ++
  [0x08, 0x10, 0x18, 0x20, 0x28, 0x30, 0x38] ++
  [0xCB, 0xD9, 0xDD, 0xED, 0xFD]

/-- `r1` and `r2` both absent (R80). -/
def Fields.noRegs (f : Fields) : Bool := f.r1.isNone && f.r2.isNone

/-- `r1` present and allowed, `r2` absent (R80). -/
def Fields.oneReg (f : Fields) (allowed : Reg → Bool) : Bool := f.r1.any allowed && f.r2.isNone

/-- The designators of `MOV` (R80): both present, both 8-bit, not both `M`. -/
def Fields.movRegs (f : Fields) : Bool :=
  f.r1.any Reg.isOperand8 && f.r2.any Reg.isOperand8 && !(decide (f.r1 = some .m) && decide (f.r2 = some .m))

/-- The table of R80, row by row: which designators and which payload a well-formed record has; `len` is not
checked. For `UNIMPL(b)` the byte must be one of the 95 (R75), and anything may stand beside it. -/
def Instr.wf (i : Instr) : Bool :=
  match i with
  | .nop _ | .xchg _ | .rrc _ | .ret _ | .ei _ => i.fields.noRegs && i.fields.data.isNone
  | .lxi _ _ => i.fields.oneReg Reg.isOperand16 && i.fields.data.isD16
  | .ldax _ _ => i.fields.oneReg Reg.isIndexOperand && i.fields.data.isNone
  | .sta _ | .lda _ | .jmp _ | .jz _ | .jnz _ | .jnc _ | .call _ => i.fields.noRegs && i.fields.data.isD16
  | .mov _ _ _ => i.fields.movRegs && i.fields.data.isNone
  | .mvi _ _ => i.fields.oneReg Reg.isOperand8 && i.fields.data.isD8
  | .push _ _ | .pop _ _ => i.fields.oneReg Reg.isStackOperand && i.fields.data.isNone
  | .inx _ _ | .dcx _ _ | .dad _ _ => i.fields.oneReg Reg.isOperand16 && i.fields.data.isNone
  | .inr _ _ | .dcr _ _ | .add _ _ | .sub _ _ | .ana _ _ | .xra _ _ =>
      i.fields.oneReg Reg.isOperand8 && i.fields.data.isNone
  | .adi _ | .sui _ | .ani _ | .cpi _ | .out _ | .inp _ => i.fields.noRegs && i.fields.data.isD8
  | .unimpl u => decide (u.byte ∈ unimplementedBytes)

end Sys2Proof
end

