-- ==== Sys2Proof/Decode.lean ====
section
/-! DEFINITION. The decoder of spec/30_encoding.md (R70 to R79, R84), and the encoder written from the same
tables. The byte values other than 0x04, 0x34, 0x3C, 0x80, 0x87 are the spec's decision D2 (log entry 13). -/

namespace Sys2Proof

/-! ## Byte order and bit fields -/

/-- `h ++ l` of spec/00_scope.md section 6: the word whose high byte is `hi`. -/
def joinBytes (hi lo : Byte) : Word := hi ++ lo

/-- `v[15:8]`. -/
def hiByte (v : Word) : Byte := v.extractLsb' 8 8

/-- `v[7:0]`. -/
def loByte (v : Word) : Byte := v.extractLsb' 0 8

/-- The `PC` increment of a record's length (R103). -/
def Len.toWord : Len → Word
  | .one => 1
  | .two => 2
  | .three => 3

/-! ## The decoder -/

/-- The formats of R71, and the class of an unimplemented byte (R79). -/
inductive Format where
  | f1 | f2 | f3 | unimplemented
  deriving DecidableEq, Repr

/-- The 8-bit operand of a 3-bit field `ddd` or `sss` (R72). -/
def reg8OfField (v : Nat) : Reg :=
  match v with
  | 0 => .b
  | 1 => .c
  | 2 => .d
  | 3 => .e
  | 4 => .h
  | 5 => .l
  | 6 => .m
  | _ => .a

/-- The 16-bit operand of a 2-bit field `pp` (R73). -/
def reg16OfField (v : Nat) : Reg :=
  match v with
  | 0 => .b
  | 1 => .d
  | 2 => .h
  | _ => .sp

/-- Field `ddd`, bits 5:3 of the opcode byte (R71). -/
def fieldDdd (b : Byte) : Nat := (b.extractLsb' 3 3).toNat

/-- Field `sss`, bits 2:0 (R71). -/
def fieldSss (b : Byte) : Nat := (b.extractLsb' 0 3).toNat

/-- Field `rp`, bits 5:4 (R71). -/
def fieldRp (b : Byte) : Nat := (b.extractLsb' 4 2).toNat

/-- Bits 3:0, by which R84 tells the 16-bit instructions apart. -/
def lowNibble (b : Byte) : Nat := (b.extractLsb' 0 4).toNat

/-- Group 00 (R84 step 4): loads, increments and miscellany. -/
def opcodeGroup0 (b : Byte) : Format × (Payload → Len → Instr) :=
  match b.toNat with
  | 0x00 => (.f1, fun d n => .nop (.bare d n))
  | 0x0F => (.f1, fun d n => .rrc (.bare d n))
  | 0x32 => (.f3, fun d n => .sta (.bare d n))
  | 0x3A => (.f3, fun d n => .lda (.bare d n))
  | _ =>
    match lowNibble b with
    | 0x1 => (.f3, fun d n => .lxi (some (reg16OfField (fieldRp b))) (.bare d n))
    | 0x3 => (.f1, fun d n => .inx (some (reg16OfField (fieldRp b))) (.bare d n))
    | 0xB => (.f1, fun d n => .dcx (some (reg16OfField (fieldRp b))) (.bare d n))
    | 0x9 => (.f1, fun d n => .dad (some (reg16OfField (fieldRp b))) (.bare d n))
    | 0xA =>
      if fieldRp b < 2 then (.f1, fun d n => .ldax (some (reg16OfField (fieldRp b))) (.bare d n))
      else (.unimplemented, fun d n => .unimpl ⟨b, .bare d n⟩)
    | _ =>
      match fieldSss b with
      | 4 => (.f1, fun d n => .inr (some (reg8OfField (fieldDdd b))) (.bare d n))
      | 5 => (.f1, fun d n => .dcr (some (reg8OfField (fieldDdd b))) (.bare d n))
      | 6 => (.f2, fun d n => .mvi (some (reg8OfField (fieldDdd b))) (.bare d n))
      | _ => (.unimplemented, fun d n => .unimpl ⟨b, .bare d n⟩)

/-- Group 01 (R84 step 2): `MOV d, s`, but for 0x76. -/
def opcodeGroup1 (b : Byte) : Format × (Payload → Len → Instr) :=
  if fieldDdd b = 6 ∧ fieldSss b = 6 then (.unimplemented, fun d n => .unimpl ⟨b, .bare d n⟩)
  else (.f1, fun d n => .mov (some (reg8OfField (fieldDdd b))) (some (reg8OfField (fieldSss b))) ⟨d, n⟩)

/-- Group 10 (R84 step 3): the accumulator group, told apart by bits 5:3. -/
def opcodeGroup2 (b : Byte) : Format × (Payload → Len → Instr) :=
  match fieldDdd b with
  | 0 => (.f1, fun d n => .add (some (reg8OfField (fieldSss b))) (.bare d n))
  | 2 => (.f1, fun d n => .sub (some (reg8OfField (fieldSss b))) (.bare d n))
  | 4 => (.f1, fun d n => .ana (some (reg8OfField (fieldSss b))) (.bare d n))
  | 5 => (.f1, fun d n => .xra (some (reg8OfField (fieldSss b))) (.bare d n))
  | _ => (.unimplemented, fun d n => .unimpl ⟨b, .bare d n⟩)

/-- Group 11 (R84 step 5): branches, stack, immediates and I/O. -/
def opcodeGroup3 (b : Byte) : Format × (Payload → Len → Instr) :=
  match b.toNat with
  | 0xC2 => (.f3, fun d n => .jnz (.bare d n))
  | 0xC3 => (.f3, fun d n => .jmp (.bare d n))
  | 0xC6 => (.f2, fun d n => .adi (.bare d n))
  | 0xC9 => (.f1, fun d n => .ret (.bare d n))
  | 0xCA => (.f3, fun d n => .jz (.bare d n))
  | 0xCD => (.f3, fun d n => .call (.bare d n))
  | 0xD2 => (.f3, fun d n => .jnc (.bare d n))
  | 0xD3 => (.f2, fun d n => .out (.bare d n))
  | 0xD6 => (.f2, fun d n => .sui (.bare d n))
  | 0xDB => (.f2, fun d n => .inp (.bare d n))
  | 0xE6 => (.f2, fun d n => .ani (.bare d n))
  | 0xEB => (.f1, fun d n => .xchg (.bare d n))
  | 0xFB => (.f1, fun d n => .ei (.bare d n))
  | 0xFE => (.f2, fun d n => .cpi (.bare d n))
  | _ =>
    if fieldRp b = 3 then (.unimplemented, fun d n => .unimpl ⟨b, .bare d n⟩)
    else
      match lowNibble b with
      | 0x1 => (.f1, fun d n => .pop (some (reg16OfField (fieldRp b))) (.bare d n))
      | 0x5 => (.f1, fun d n => .push (some (reg16OfField (fieldRp b))) (.bare d n))
      | _ => (.unimplemented, fun d n => .unimpl ⟨b, .bare d n⟩)

/-- What the opcode byte alone decides (R70, R76): the size class and the opcode tag. -/
def opcode (b : Byte) : Format × (Payload → Len → Instr) :=
  match (b.extractLsb' 6 2).toNat with
  | 0 => opcodeGroup0 b
  | 1 => opcodeGroup1 b
  | 2 => opcodeGroup2 b
  | _ => opcodeGroup3 b

/-- The record of an opcode byte and the bytes after it (R74, R76); a byte the format does not have is
ignored. The 16-bit payload is little-endian. For an unimplemented byte no operand byte is used and the
length is the free `UNIMPL_LEN` (R79). -/
def assemble (b0 b1 b2 : Byte) : Record :=
  match opcode b0 with
  | (.f1, tag) => tag .none .one
  | (.f2, tag) => tag (.d8 b1) .two
  | (.f3, tag) => tag (.d16 (joinBytes b2 b1)) .three
  | (.unimplemented, tag) => tag .none (Config.unimplLen b0)

/-- Why a list of bytes decodes to nothing: it ends too soon. No opcode byte is rejected (R76). -/
inductive DecodeError where
  | noOpcodeByte
  | missingOperand (opcodeByte : Byte)
  deriving DecidableEq, Repr

/-- The decoder on a list of bytes: the record and the bytes after it. -/
def decode : List Byte → Except DecodeError (Record × List Byte)
  | [] => .error .noOpcodeByte
  | b0 :: rest =>
    match (opcode b0).1, rest with
    | .f1, rest => .ok (assemble b0 0 0, rest)
    | .unimplemented, rest => .ok (assemble b0 0 0, rest)
    | .f2, b1 :: rest => .ok (assemble b0 b1 0, rest)
    | .f3, b1 :: b2 :: rest => .ok (assemble b0 b1 b2, rest)
    | .f2, [] => .error (.missingOperand b0)
    | .f3, [] => .error (.missingOperand b0)
    | .f3, [_] => .error (.missingOperand b0)

/-- Byte `k` of an instruction whose bits are `w`, the first byte least significant. -/
def byteOfBits (w k : Nat) : Byte := BitVec.ofNat 8 (w / 2 ^ (8 * k))

/-- The decoder on an instruction given as `nbits` bits, every bit above them 0. -/
def decodeTableWord (nbits w : Nat) : Option Instr :=
  match decode [byteOfBits (w % 2 ^ nbits) 0, byteOfBits (w % 2 ^ nbits) 1,
    byteOfBits (w % 2 ^ nbits) 2] with
  | .ok (r, _) => some r
  | .error _ => none

/-! ## The encoder -/

/-- The 3-bit code of an 8-bit operand (R72); `SP` has none. -/
def Reg.code8 : Reg → Option (BitVec 3)
  | .b => some 0b000
  | .c => some 0b001
  | .d => some 0b010
  | .e => some 0b011
  | .h => some 0b100
  | .l => some 0b101
  | .m => some 0b110
  | .a => some 0b111
  | .sp => none

/-- The 2-bit code of a 16-bit operand (R73). -/
def Reg.code16 : Reg → Option (BitVec 2)
  | .b => some 0b00
  | .d => some 0b01
  | .h => some 0b10
  | .sp => some 0b11
  | .a | .c | .e | .l | .m => none

/-- Format F1 (R71): the opcode byte alone. -/
def encodeF1 (data : Payload) (b0 : Option Byte) : Option (List Byte) :=
  match data, b0 with
  | .none, some b => some [b]
  | _, _ => none

/-- Format F2 (R71): the opcode byte and `d8` or `p8`. -/
def encodeF2 (data : Payload) (b0 : Option Byte) : Option (List Byte) :=
  match data, b0 with
  | .d8 v, some b => some [b, v]
  | _, _ => none

/-- Format F3 (R71, R74): the opcode byte, the low byte of the operand, then its high byte. -/
def encodeF3 (data : Payload) (b0 : Option Byte) : Option (List Byte) :=
  match data, b0 with
  | .d16 v, some b => some [b, loByte v, hiByte v]
  | _, _ => none

/-- A pattern `00pp----` or `11pp----` of R71. -/
def patternRp (grp : BitVec 2) (low : BitVec 4) (rp : Option Reg) : Option Byte :=
  (rp.bind Reg.code16).map fun p => grp ++ p ++ low

/-- A pattern `00ddd---` of R71. -/
def patternDdd (low : BitVec 3) (r : Option Reg) : Option Byte :=
  (r.bind Reg.code8).map fun d => 0b00#2 ++ d ++ low

/-- A pattern `10---sss` of R71. -/
def patternAlu (alu : BitVec 3) (r : Option Reg) : Option Byte :=
  (r.bind Reg.code8).map fun c => 0b10#2 ++ alu ++ c

/-- The pattern `01dddsss` of R71. -/
def patternMov (dst src : Option Reg) : Option Byte :=
  match dst.bind Reg.code8, src.bind Reg.code8 with
  | some d, some c => some (0b01#2 ++ d ++ c)
  | _, _ => none

/-- The bytes of an instruction, from the patterns of R71; `none` where it is not well-formed (R80). -/
def encode (i : Instr) : Option (List Byte) :=
  if i.wf then
    match i with
    | .nop _ => encodeF1 i.fields.data (some 0b00000000)
    | .lxi _ _ => encodeF3 i.fields.data (patternRp 0b00 0b0001 i.fields.r1)
    | .ldax _ _ => encodeF1 i.fields.data (patternRp 0b00 0b1010 i.fields.r1)
    | .inx _ _ => encodeF1 i.fields.data (patternRp 0b00 0b0011 i.fields.r1)
    | .dcx _ _ => encodeF1 i.fields.data (patternRp 0b00 0b1011 i.fields.r1)
    | .dad _ _ => encodeF1 i.fields.data (patternRp 0b00 0b1001 i.fields.r1)
    | .inr _ _ => encodeF1 i.fields.data (patternDdd 0b100 i.fields.r1)
    | .dcr _ _ => encodeF1 i.fields.data (patternDdd 0b101 i.fields.r1)
    | .mvi _ _ => encodeF2 i.fields.data (patternDdd 0b110 i.fields.r1)
    | .rrc _ => encodeF1 i.fields.data (some 0b00001111)
    | .sta _ => encodeF3 i.fields.data (some 0b00110010)
    | .lda _ => encodeF3 i.fields.data (some 0b00111010)
    | .mov _ _ _ => encodeF1 i.fields.data (patternMov i.fields.r1 i.fields.r2)
    | .add _ _ => encodeF1 i.fields.data (patternAlu 0b000 i.fields.r1)
    | .sub _ _ => encodeF1 i.fields.data (patternAlu 0b010 i.fields.r1)
    | .ana _ _ => encodeF1 i.fields.data (patternAlu 0b100 i.fields.r1)
    | .xra _ _ => encodeF1 i.fields.data (patternAlu 0b101 i.fields.r1)
    | .pop _ _ => encodeF1 i.fields.data (patternRp 0b11 0b0001 i.fields.r1)
    | .push _ _ => encodeF1 i.fields.data (patternRp 0b11 0b0101 i.fields.r1)
    | .jnz _ => encodeF3 i.fields.data (some 0b11000010)
    | .jmp _ => encodeF3 i.fields.data (some 0b11000011)
    | .adi _ => encodeF2 i.fields.data (some 0b11000110)
    | .ret _ => encodeF1 i.fields.data (some 0b11001001)
    | .jz _ => encodeF3 i.fields.data (some 0b11001010)
    | .call _ => encodeF3 i.fields.data (some 0b11001101)
    | .jnc _ => encodeF3 i.fields.data (some 0b11010010)
    | .out _ => encodeF2 i.fields.data (some 0b11010011)
    | .sui _ => encodeF2 i.fields.data (some 0b11010110)
    | .inp _ => encodeF2 i.fields.data (some 0b11011011)
    | .ani _ => encodeF2 i.fields.data (some 0b11100110)
    | .xchg _ => encodeF1 i.fields.data (some 0b11101011)
    | .ei _ => encodeF1 i.fields.data (some 0b11111011)
    | .cpi _ => encodeF2 i.fields.data (some 0b11111110)
    | .unimpl u => some [u.byte]
  else none

/-- The length `DECODE` reports for this instruction: by the format, except for the free length of an
unimplemented byte (R71, R79). -/
def Instr.decodedLen : Instr → Len
  | .unimpl u => Config.unimplLen u.byte
  | .lxi _ _ | .sta _ | .lda _ | .jnz _ | .jmp _ | .jz _ | .call _ | .jnc _ => .three
  | .mvi _ _ | .adi _ | .out _ | .sui _ | .inp _ | .ani _ | .cpi _ => .two
  | .nop _ | .inx _ _ | .inr _ _ | .dcr _ _ | .dad _ _ | .ldax _ _ | .dcx _ _ | .rrc _ | .mov _ _ _
  | .add _ _ | .sub _ _ | .ana _ _ | .xra _ _ | .pop _ _ | .push _ _ | .ret _ | .xchg _ | .ei _ => .one

/-- The records `DECODE` can return (R76, R80): well-formed, with the length it reports, and for an
unimplemented byte with nothing beside it. -/
def Instr.fetchable (i : Instr) : Bool :=
  i.wf && decide (i.fields.len = i.decodedLen) &&
    match i with
    | .unimpl u => u.fields.noRegs && u.fields.data.isNone
    | _ => true

end Sys2Proof
end

