-- ==== Sys2Proof/Machine/Ops.lean ====
section
/-! DEFINITION. The shared operations: memory (spec/20_memory.md), the I/O interface, the stack, and raising
an error (spec/60_exceptions.md R267). -/

namespace Sys2Proof.Machine

/-! ## The byte store -/

/-- What an address that memory does not list reads as (DESIGN CHOICE, log entry 1). -/
def Memory.unlisted : Byte := 0

/-- The byte stored at address `k`. -/
def Memory.read : Memory → Nat → Byte
  | [], _ => Memory.unlisted
  | (a, v) :: m, k => if a = k then v else Memory.read m k

/-- Prefix a cell, unless it holds what an unlisted address reads as. -/
def Memory.cons (k : Nat) (v : Byte) (m : Memory) : Memory :=
  if v = Memory.unlisted then m else (k, v) :: m

/-- Store `v` at address `k`, keeping the canonical form. -/
def Memory.write : Memory → Nat → Byte → Memory
  | [], k, v => Memory.cons k v []
  | (a, w) :: m, k, v =>
    if k < a then Memory.cons k v ((a, w) :: m)
    else if k = a then Memory.cons k v m
    else (a, w) :: Memory.write m k v

/-- The canonical form: addresses strictly rising and below 2^16, and no entry equal to what an unlisted
address reads as. -/
def Memory.wf (m : Memory) : Bool :=
  decide (m.Pairwise fun x y => x.1 < y.1) &&
    m.all fun x => decide (x.1 < 65536) && decide (x.2 ≠ Memory.unlisted)

/-! ## The memory interface -/

/-- `MemMap(addr)` (R41): the class of the first region that holds the address. -/
def classOf (regions : List Region) (a : Word) : MemClass :=
  match regions with
  | [] => .unmapped
  | r :: rs => if r.base ≤ a.toNat ∧ a.toNat < r.base + r.size then r.cls else classOf rs a

/-- The class of an address in this machine. -/
def State.classAt (s : State) (a : Word) : MemClass := classOf s.params.regions a

/-- `MemRead(addr, 1)` (R42). -/
def memRead (s : State) (a : Word) : Except Fault Byte :=
  match s.classAt a with
  | .rw => .ok (s.mem.read a.toNat)
  | .ro => .ok (s.mem.read a.toNat)
  | .unmapped => .error (.addressFault a)

/-- `MemWrite(addr, 1, v)` (R43). -/
def memWrite (s : State) (a : Word) (v : Byte) : Except Fault State :=
  match s.classAt a with
  | .rw => .ok (s.setMem (s.mem.write a.toNat v))
  | .ro => .ok s
  | .unmapped => .error (.addressFault a)

/-- `MemRead(addr, 2)` (R46): the low byte first, then the high byte at the next address. -/
def memRead16 (s : State) (a : Word) : Except Fault Word :=
  match memRead s a with
  | .error e => .error e
  | .ok lo =>
    match memRead s (a + 1) with
    | .error e => .error e
    | .ok hi => .ok (joinBytes hi lo)

/-! ## The stack -/

/-- The push of `PUSH` and `CALL` (R147, R224): the high byte at `SP-1`, then the low byte at `SP-2`. -/
def push16 (s : State) (v : Word) : Except Fault State :=
  match memWrite s (s.sp - 1) (hiByte v) with
  | .error e => .error e
  | .ok s1 =>
    match memWrite s1 (s.sp - 2) (loByte v) with
    | .error e => .error e
    | .ok s2 => .ok (s2.setSp (s.sp - 2))

/-- The pop of `POP` and `RET` (R148, R225): the word at `SP`, and the state with `SP` past it. -/
def pop16 (s : State) : Except Fault (Word × State) :=
  match memRead16 s s.sp with
  | .error e => .error e
  | .ok v => .ok (v, s.setSp (s.sp + 2))

/-! ## The I/O interface -/

/-- The byte the device at `port` answers now: the head of the queue of answers, or a free value
(R51, log entry 4). -/
def portAnswer (s : State) (port : Byte) : Byte :=
  match s.inputs with
  | v :: _ => v
  | [] => Config.portAnswer s.ioTrace port

/-- `IoRead(port)` (R51). -/
def ioRead (s : State) (port : Byte) : Except Fault (Byte × State) :=
  if port ∈ s.params.io.absentReads then .error (.unsupportedPort port .read)
  else
    .ok (portAnswer s port,
      (s.setInputs s.inputs.tail).setIoTrace (s.ioTrace ++ [.read port (portAnswer s port)]))

/-- `IoWrite(port, v)` (R51). -/
def ioWrite (s : State) (port v : Byte) : Except Fault State :=
  if port ∈ s.params.io.absentWrites then .error (.unsupportedPort port .write)
  else .ok (s.setIoTrace (s.ioTrace ++ [.write port v]))

/-! ## Errors -/

/-- `AddressFault` is the one terminal kind (R260, R265). -/
def Fault.terminal : Fault → Bool
  | .addressFault _ => true
  | .unimplementedInstruction _ => false
  | .invalidInstructionData _ => false
  | .unsupportedRegister _ => false
  | .registerNot8Bit _ => false
  | .unsupportedPort _ _ => false

/-- `raise e` (R267), with `s` the state the error leaves: nothing is saved and nothing is vectored.
Under `halt`, and for a terminal error, the machine stops. Under `proceed` the block answers with the
error kind and `s` is otherwise as it was (R102, R104). -/
def raiseError (e : Fault) (s : State) : Result :=
  if e.terminal then .fault e
  else
    match s.params.errorPolicy with
    | .halt => .fault e
    | .proceed => .next (s.setAnswer (some (.error e)))

/-- Go on with a value, or raise the error in state `s`: no write of the failed instruction stays (R105). -/
def orRaise {α : Type} (x : Except Fault α) (s : State) (k : α → Result) : Result :=
  match x with
  | .ok v => k v
  | .error e => raiseError e s

/-- The last request was answered with an error. -/
def State.failed (s : State) : Bool :=
  match s.answer with
  | some (.error _) => true
  | some .ok => false
  | some .ended => false
  | none => false

/-! ## The interrupt controller -/

/-- `generate(rec)` (R270): overwrites whatever is pending, and looks at nothing else. -/
def generate (s : State) (rec : Record) : State := s.setPending (some rec)

/-- `consume()` (R271): the pending record and the idle controller, or nothing. -/
def consume (s : State) : Option (Record × State) :=
  match s.pending with
  | some rec => some (rec, s.setPending none)
  | none => none

/-- Entry and return have no operation of their own: entry is `consume` and then the record's own operation
with `INTE` cleared (R273, Control.lean), and there is no return-from-interrupt instruction (R275). This is
the test the control unit makes at the start of a cycle (R272). -/
def takeInterrupt (s : State) : Option (Record × State) :=
  if s.inte then consume s else none

/-- A reset applied by the platform (R300): the registers, flags, latch and slot of R25; memory, devices and
parameters untouched (log entry 12). -/
def warmReset (s : State) : State :=
  { State.reset with
    mem := s.mem, params := s.params, moves := s.moves, inputs := s.inputs, ioTrace := s.ioTrace,
    answer := s.answer }

/-- Load a program image before cycles begin (R303, R305): its byte `i` at address `i`, from address `k` on. -/
def Memory.load (m : Memory) (k : Nat) : List Byte → Memory
  | [] => m
  | v :: vs => Memory.load (if k < 65536 then m.write k v else m) (k + 1) vs

/-- The machine with a program image in its program region, `PROG_LEN` being the image's length (R44, R303). -/
def State.loadProgram (s : State) (image : List Byte) : State :=
  { s with mem := s.mem.load 0 image, params := { s.params with progLen := image.length } }

end Sys2Proof.Machine
end

