-- ==== Sys2Proof/Machine/Operands.lean ====
section
/-! DEFINITION. The register accessors (spec/10_state.md R26 to R29) and the checks on a record that step 4
makes before its operation (spec/40_execution_model.md R105). Each takes the record `i` it is made for, which is
the information the error carries (spec/60_exceptions.md R260). -/

namespace Sys2Proof.Machine

/-- Pair `B`, that is `B ++ C` (R11). -/
def State.bc (s : State) : Word := joinBytes s.b s.c

/-- Pair `D`, that is `D ++ E` (R11). -/
def State.de (s : State) : Word := joinBytes s.d s.e

/-- Pair `H`, that is `H ++ L`: also the address `M` stands for (R11, R12). -/
def State.hl (s : State) : Word := joinBytes s.h s.l

def State.setBc (s : State) (v : Word) : State := (s.setB (hiByte v)).setC (loByte v)
def State.setDe (s : State) (v : Word) : State := (s.setD (hiByte v)).setE (loByte v)
def State.setHl (s : State) (v : Word) : State := (s.setH (hiByte v)).setL (loByte v)

/-- `Rd8(r)` (R26). -/
def rd8 (i : Instr) (r : Reg) (s : State) : Except Fault Byte :=
  match r with
  | .a => .ok s.a
  | .b => .ok s.b
  | .c => .ok s.c
  | .d => .ok s.d
  | .e => .ok s.e
  | .h => .ok s.h
  | .l => .ok s.l
  | .m => memRead s s.hl
  | .sp => .error (.registerNot8Bit i)

/-- `Wr8(r, v)` (R27). -/
def wr8 (i : Instr) (r : Reg) (v : Byte) (s : State) : Except Fault State :=
  match r with
  | .a => .ok (s.setA v)
  | .b => .ok (s.setB v)
  | .c => .ok (s.setC v)
  | .d => .ok (s.setD v)
  | .e => .ok (s.setE v)
  | .h => .ok (s.setH v)
  | .l => .ok (s.setL v)
  | .m => memWrite s s.hl v
  | .sp => .error (.unsupportedRegister i)

/-- `RdRP(rp)` (R28). -/
def rdRP (i : Instr) (rp : Reg) (s : State) : Except Fault Word :=
  match rp with
  | .b => .ok s.bc
  | .d => .ok s.de
  | .h => .ok s.hl
  | .sp => .ok s.sp
  | .a => .error (.unsupportedRegister i)
  | .c => .error (.unsupportedRegister i)
  | .e => .error (.unsupportedRegister i)
  | .l => .error (.unsupportedRegister i)
  | .m => .error (.unsupportedRegister i)

/-- `WrRP(rp, v)` (R29). -/
def wrRP (i : Instr) (rp : Reg) (v : Word) (s : State) : Except Fault State :=
  match rp with
  | .b => .ok (s.setBc v)
  | .d => .ok (s.setDe v)
  | .h => .ok (s.setHl v)
  | .sp => .ok (s.setSp v)
  | .a => .error (.unsupportedRegister i)
  | .c => .error (.unsupportedRegister i)
  | .e => .error (.unsupportedRegister i)
  | .l => .error (.unsupportedRegister i)
  | .m => .error (.unsupportedRegister i)

/-! ## The checks of step 4

Check (ii) of R105 is `noData`, `byteData`, `wordData`; check (iii) is `oneReg`, `sourceReg`, `movRegs`, by the
table of spec/30_encoding.md R80. A meaning makes them in that order. -/

/-- No payload (R80, R264). -/
def noData (i : Instr) : Except Fault Unit :=
  match i.fields.data with
  | .none => .ok ()
  | .d8 _ => .error (.invalidInstructionData i)
  | .d16 _ => .error (.invalidInstructionData i)

/-- A payload of one byte. -/
def byteData (i : Instr) : Except Fault Byte :=
  match i.fields.data with
  | .d8 v => .ok v
  | .none => .error (.invalidInstructionData i)
  | .d16 _ => .error (.invalidInstructionData i)

/-- A payload of two bytes. -/
def wordData (i : Instr) : Except Fault Word :=
  match i.fields.data with
  | .d16 v => .ok v
  | .none => .error (.invalidInstructionData i)
  | .d8 _ => .error (.invalidInstructionData i)

/-- No designator, for the two rows of R80 whose only error is `InvalidInstructionData` (DEDUCED, log entry
9). -/
def noRegs (i : Instr) : Except Fault Unit :=
  if i.fields.noRegs then .ok () else .error (.invalidInstructionData i)

/-- One designator, of those allowed, or `UnsupportedRegister` (R80, R262); so also where `r1` is absent or
`r2` present (decision D13). -/
def oneReg (i : Instr) (allowed : Reg → Bool) : Except Fault Reg :=
  match i.fields.r1, i.fields.r2 with
  | some r, none => if allowed r then .ok r else .error (.unsupportedRegister i)
  | some _, some _ => .error (.unsupportedRegister i)
  | none, some _ => .error (.unsupportedRegister i)
  | none, none => .error (.unsupportedRegister i)

/-- One designator whose 8-bit value is read: `SP` raises `RegisterNot8Bit` (R80, R263), and first (DESIGN CHOICE,
log entry 8); one absent or superfluous raises `UnsupportedRegister` (DEDUCED from D13, log entry 8). -/
def sourceReg (i : Instr) : Except Fault Reg :=
  if i.fields.r1 = some .sp then .error (.registerNot8Bit i) else oneReg i Reg.isOperand8

/-- The destination and the source of `MOV` (R80): the source is checked first (DESIGN CHOICE, log entry 8), and
a missing one raises `UnsupportedRegister` (DEDUCED from D13, log entry 8). -/
def movRegs (i : Instr) : Except Fault (Reg × Reg) :=
  if i.fields.r2 = some .sp then .error (.registerNot8Bit i)
  else
    match i.fields.r1, i.fields.r2 with
    | some dst, some src =>
      if dst.isOperand8 && !(decide (dst = .m) && decide (src = .m)) then .ok (dst, src)
      else .error (.unsupportedRegister i)
    | some _, none => .error (.unsupportedRegister i)
    | none, some _ => .error (.unsupportedRegister i)
    | none, none => .error (.unsupportedRegister i)

end Sys2Proof.Machine
end

