-- ==== Sys2Proof/Machine/Arithmetic.lean ====
section
/-! DEFINITION. Arithmetic instructions (spec/42_arithmetic.md). Flags are written together with the result,
after every read has succeeded (spec/40_execution_model.md R105). -/

namespace Sys2Proof.Machine

/-- `INX rp` (R170). -/
def execInx (r1 : Option Reg) (rest : Rest1) (s : State) : Result :=
  orRaise (noData (.inx r1 rest)) s fun _ =>
    orRaise (oneReg (.inx r1 rest) Reg.isOperand16) s fun rp =>
      orRaise (rdRP (.inx r1 rest) rp s) s fun v =>
        orRaise (wrRP (.inx r1 rest) rp (inc16 v) s) s fun t => .next t

/-- `DCX rp` (R171). -/
def execDcx (r1 : Option Reg) (rest : Rest1) (s : State) : Result :=
  orRaise (noData (.dcx r1 rest)) s fun _ =>
    orRaise (oneReg (.dcx r1 rest) Reg.isOperand16) s fun rp =>
      orRaise (rdRP (.dcx r1 rest) rp s) s fun v =>
        orRaise (wrRP (.dcx r1 rest) rp (dec16 v) s) s fun t => .next t

/-- `INR r` (R172): `CY` is unchanged, and the flags are written even when the store is ignored. -/
def execInr (r1 : Option Reg) (rest : Rest1) (s : State) : Result :=
  orRaise (noData (.inr r1 rest)) s fun _ =>
    orRaise (sourceReg (.inr r1 rest)) s fun r =>
      orRaise (rd8 (.inr r1 rest) r s) s fun v =>
        orRaise (wr8 (.inr r1 rest) r (inc8 v) s) s fun t =>
          .next (t.setFlags (setSZP (inc8 v) s.flags))

/-- `DCR r` (R173). -/
def execDcr (r1 : Option Reg) (rest : Rest1) (s : State) : Result :=
  orRaise (noData (.dcr r1 rest)) s fun _ =>
    orRaise (sourceReg (.dcr r1 rest)) s fun r =>
      orRaise (rd8 (.dcr r1 rest) r s) s fun v =>
        orRaise (wr8 (.dcr r1 rest) r (dec8 v) s) s fun t =>
          .next (t.setFlags (setSZP (dec8 v) s.flags))

/-- Write a result of the accumulator group: `A` and the four flags (R113). -/
def writeAcc (r : Byte × Bool) (s : State) : State :=
  (s.setA r.1).setFlags (setSZPC r.1 r.2 s.flags)

/-- `ADD r` (R174). -/
def execAdd (r1 : Option Reg) (rest : Rest1) (s : State) : Result :=
  orRaise (noData (.add r1 rest)) s fun _ =>
    orRaise (sourceReg (.add r1 rest)) s fun r =>
      orRaise (rd8 (.add r1 rest) r s) s fun v => .next (writeAcc (add8 s.a v) s)

/-- `ADI d8` (R175). -/
def execAdi (f : Fields) (s : State) : Result :=
  orRaise (byteData (.adi f)) s fun v =>
    orRaise (noRegs (.adi f)) s fun _ =>
      .next (writeAcc (add8 s.a v) s)

/-- `SUB r` (R176). -/
def execSub (r1 : Option Reg) (rest : Rest1) (s : State) : Result :=
  orRaise (noData (.sub r1 rest)) s fun _ =>
    orRaise (sourceReg (.sub r1 rest)) s fun r =>
      orRaise (rd8 (.sub r1 rest) r s) s fun v => .next (writeAcc (sub8 s.a v) s)

/-- `SUI d8` (R177). -/
def execSui (f : Fields) (s : State) : Result :=
  orRaise (byteData (.sui f)) s fun v =>
    orRaise (noRegs (.sui f)) s fun _ =>
      .next (writeAcc (sub8 s.a v) s)

/-- `DAD rp` (R178): `CY` alone is written. -/
def execDad (r1 : Option Reg) (rest : Rest1) (s : State) : Result :=
  orRaise (noData (.dad r1 rest)) s fun _ =>
    orRaise (oneReg (.dad r1 rest) Reg.isOperand16) s fun rp =>
      orRaise (rdRP (.dad r1 rest) rp s) s fun v =>
        .next ((s.setHl (add16 s.hl v).1).setFlags (setCY (add16 s.hl v).2 s.flags))

end Sys2Proof.Machine
end

