-- ==== Sys2Proof/Machine/Branch.lean ====
section
/-! DEFINITION. Branch, call and return instructions (spec/44_branch.md). `PC` on entry is the address of the
instruction after this one (or, in interrupt mode, of the instruction not yet fetched), so a branch that is
not taken writes nothing. -/

namespace Sys2Proof.Machine

/-- `JMP a16` (R220). -/
def execJmp (f : Fields) (s : State) : Result :=
  orRaise (wordData (.jmp f)) s fun addr =>
    orRaise (noRegs (.jmp f)) s fun _ =>
      .next (s.setPc addr)

/-- `JZ a16` (R221). -/
def execJz (f : Fields) (s : State) : Result :=
  orRaise (wordData (.jz f)) s fun addr =>
    orRaise (noRegs (.jz f)) s fun _ =>
      .next (if s.flags.z then s.setPc addr else s)

/-- `JNZ a16` (R222). -/
def execJnz (f : Fields) (s : State) : Result :=
  orRaise (wordData (.jnz f)) s fun addr =>
    orRaise (noRegs (.jnz f)) s fun _ =>
      .next (if s.flags.z then s else s.setPc addr)

/-- `JNC a16` (R223): taken when carry is SET, the documented defect of this hardware. -/
def execJnc (f : Fields) (s : State) : Result :=
  orRaise (wordData (.jnc f)) s fun addr =>
    orRaise (noRegs (.jnc f)) s fun _ =>
      .next (if s.flags.cy then s.setPc addr else s)

/-- `CALL a16` (R224): push `PC` as step 2 left it, then jump. -/
def execCall (f : Fields) (s : State) : Result :=
  orRaise (wordData (.call f)) s fun addr =>
    orRaise (noRegs (.call f)) s fun _ =>
      orRaise (push16 s s.pc) s fun t => .next (t.setPc addr)

/-- `RET` (R225): `INTE` is not touched. -/
def execRet (f : Fields) (s : State) : Result :=
  orRaise (noData (.ret f)) s fun _ => orRaise (pop16 s) s fun p => .next (p.2.setPc p.1)

end Sys2Proof.Machine
end

