-- ==== Sys2Proof/Machine/DataTransfer.lean ====
section
/-! DEFINITION. Data transfer and stack instructions (spec/41_data_transfer.md). Each meaning is step 4 of
`EXEC`: `PC` has already been advanced, or `INTE` already cleared (spec/40_execution_model.md R103). None
writes a flag. The directions of `LDAX`, `LDA`, `STA` are the spec's decision D9 (log entry 14). -/

namespace Sys2Proof.Machine

/-- `LXI rp, d16` (R140, decision D3 for `SP`). -/
def execLxi (r1 : Option Reg) (rest : Rest1) (s : State) : Result :=
  orRaise (wordData (.lxi r1 rest)) s fun v =>
    orRaise (oneReg (.lxi r1 rest) Reg.isOperand16) s fun rp =>
      orRaise (wrRP (.lxi r1 rest) rp v s) s fun t => .next t

/-- `LDAX rp` (R141): `A <- MemRead(RdRP(rp), 1)`. -/
def execLdax (r1 : Option Reg) (rest : Rest1) (s : State) : Result :=
  orRaise (noData (.ldax r1 rest)) s fun _ =>
    orRaise (oneReg (.ldax r1 rest) Reg.isIndexOperand) s fun rp =>
      orRaise (rdRP (.ldax r1 rest) rp s) s fun addr =>
        orRaise (memRead s addr) s fun v => .next (s.setA v)

/-- `STA a16` (R142). -/
def execSta (f : Fields) (s : State) : Result :=
  orRaise (wordData (.sta f)) s fun addr =>
    orRaise (noRegs (.sta f)) s fun _ =>
      orRaise (memWrite s addr s.a) s fun t => .next t

/-- `LDA a16` (R143). -/
def execLda (f : Fields) (s : State) : Result :=
  orRaise (wordData (.lda f)) s fun addr =>
    orRaise (noRegs (.lda f)) s fun _ =>
      orRaise (memRead s addr) s fun v => .next (s.setA v)

/-- `MOV d, s` (R144): `v <- Rd8(s); Wr8(d, v)`, both designators checked first (R80, R105). -/
def execMov (r1 r2 : Option Reg) (rest : Rest2) (s : State) : Result :=
  orRaise (noData (.mov r1 r2 rest)) s fun _ =>
    orRaise (movRegs (.mov r1 r2 rest)) s fun p =>
      orRaise (rd8 (.mov r1 r2 rest) p.2 s) s fun v =>
        orRaise (wr8 (.mov r1 r2 rest) p.1 v s) s fun t => .next t

/-- `MVI r, d8` (R145). -/
def execMvi (r1 : Option Reg) (rest : Rest1) (s : State) : Result :=
  orRaise (byteData (.mvi r1 rest)) s fun v =>
    orRaise (oneReg (.mvi r1 rest) Reg.isOperand8) s fun r =>
      orRaise (wr8 (.mvi r1 rest) r v s) s fun t => .next t

/-- `XCHG` (R146): `t <- RdRP(H); WrRP(H, RdRP(D)); WrRP(D, t)`. -/
def execXchg (f : Fields) (s : State) : Result :=
  orRaise (noData (.xchg f)) s fun _ => .next ((s.setHl s.de).setDe s.hl)

/-- `PUSH rp` (R147). -/
def execPush (r1 : Option Reg) (rest : Rest1) (s : State) : Result :=
  orRaise (noData (.push r1 rest)) s fun _ =>
    orRaise (oneReg (.push r1 rest) Reg.isStackOperand) s fun rp =>
      orRaise (rdRP (.push r1 rest) rp s) s fun v => orRaise (push16 s v) s fun t => .next t

/-- `POP rp` (R148): the pair and `SP` are written after both reads. -/
def execPop (r1 : Option Reg) (rest : Rest1) (s : State) : Result :=
  orRaise (noData (.pop r1 rest)) s fun _ =>
    orRaise (oneReg (.pop r1 rest) Reg.isStackOperand) s fun rp =>
      orRaise (pop16 s) s fun p => orRaise (wrRP (.pop r1 rest) rp p.1 p.2) s fun t => .next t

end Sys2Proof.Machine
end

