-- ==== Sys2Proof/Machine/Logic.lean ====
section
/-! DEFINITION. Rotate, logic and compare instructions (spec/43_logic.md). That `ANA`, `XRA` and `ANI` write `A`
and clear `CY` are the spec's decisions D6 and D7 (log entry 14). -/

namespace Sys2Proof.Machine

/-- `RRC` (R200): `CY` alone is written. -/
def execRrc (f : Fields) (s : State) : Result :=
  orRaise (noData (.rrc f)) s fun _ =>
    .next ((s.setA (rrc8 s.a).1).setFlags (setCY (rrc8 s.a).2 s.flags))

/-- `ANA r` (R201). -/
def execAna (r1 : Option Reg) (rest : Rest1) (s : State) : Result :=
  orRaise (noData (.ana r1 rest)) s fun _ =>
    orRaise (sourceReg (.ana r1 rest)) s fun r =>
      orRaise (rd8 (.ana r1 rest) r s) s fun v => .next (writeAcc (and8 s.a v, false) s)

/-- `XRA r` (R202). -/
def execXra (r1 : Option Reg) (rest : Rest1) (s : State) : Result :=
  orRaise (noData (.xra r1 rest)) s fun _ =>
    orRaise (sourceReg (.xra r1 rest)) s fun r =>
      orRaise (rd8 (.xra r1 rest) r s) s fun v => .next (writeAcc (xor8 s.a v, false) s)

/-- `ANI d8` (R203). -/
def execAni (f : Fields) (s : State) : Result :=
  orRaise (byteData (.ani f)) s fun v =>
    orRaise (noRegs (.ani f)) s fun _ =>
      .next (writeAcc (and8 s.a v, false) s)

/-- `CPI d8` (R204): the flags of `SUI`, and `A` is not written. -/
def execCpi (f : Fields) (s : State) : Result :=
  orRaise (byteData (.cpi f)) s fun v =>
    orRaise (noRegs (.cpi f)) s fun _ =>
      .next (s.setFlags (setSZPC (sub8 s.a v).1 (sub8 s.a v).2 s.flags))

end Sys2Proof.Machine
end

