-- ==== Sys2Proof/Machine/System.lean ====
section
/-! DEFINITION. I/O, interrupt control, no-operation (spec/45_io_interrupt_control.md), and the instruction that
stands for the 95 unimplemented bytes (spec/60_exceptions.md R261). -/

namespace Sys2Proof.Machine

/-- `OUT p8` (R240). -/
def execOut (f : Fields) (s : State) : Result :=
  orRaise (byteData (.out f)) s fun port =>
    orRaise (noRegs (.out f)) s fun _ =>
      orRaise (ioWrite s port s.a) s fun t => .next t

/-- `IN p8` (R241). -/
def execInp (f : Fields) (s : State) : Result :=
  orRaise (byteData (.inp f)) s fun port =>
    orRaise (noRegs (.inp f)) s fun _ =>
      orRaise (ioRead s port) s fun p => .next (p.2.setA p.1)

/-- `EI` (R242): at once, with no delay (R306). -/
def execEi (f : Fields) (s : State) : Result :=
  orRaise (noData (.ei f)) s fun _ => .next (s.setInte true)

/-- `NOP` (R243). -/
def execNop (f : Fields) (s : State) : Result :=
  orRaise (noData (.nop f)) s fun _ => .next s

/-- `UNIMPL(b)` (R261): check (i) of step 4, which always fails, whatever else the record holds (R80). -/
def execUnimpl (u : UnimplRest) (s : State) : Result :=
  raiseError (.unimplementedInstruction u.byte) s

end Sys2Proof.Machine
end

