-- ==== Sys2Proof/Machine/Dispatch.lean ====
section
/-! DEFINITION. Step 4 of `EXEC` (spec/40_execution_model.md R103): one arm per instruction. -/

namespace Sys2Proof.Machine

def exec (i : Instr) (s : State) : Host.Outcome State Fault Refusal :=
  match i with
  | .nop f => Sys2Proof.Machine.execNop f s
  | .lxi r1 rest => Sys2Proof.Machine.execLxi r1 rest s
  | .inx r1 rest => Sys2Proof.Machine.execInx r1 rest s
  | .inr r1 rest => Sys2Proof.Machine.execInr r1 rest s
  | .dcr r1 rest => Sys2Proof.Machine.execDcr r1 rest s
  | .mvi r1 rest => Sys2Proof.Machine.execMvi r1 rest s
  | .dad r1 rest => Sys2Proof.Machine.execDad r1 rest s
  | .ldax r1 rest => Sys2Proof.Machine.execLdax r1 rest s
  | .dcx r1 rest => Sys2Proof.Machine.execDcx r1 rest s
  | .rrc f => Sys2Proof.Machine.execRrc f s
  | .sta f => Sys2Proof.Machine.execSta f s
  | .lda f => Sys2Proof.Machine.execLda f s
  | .mov r1 r2 rest => Sys2Proof.Machine.execMov r1 r2 rest s
  | .add r1 rest => Sys2Proof.Machine.execAdd r1 rest s
  | .sub r1 rest => Sys2Proof.Machine.execSub r1 rest s
  | .ana r1 rest => Sys2Proof.Machine.execAna r1 rest s
  | .xra r1 rest => Sys2Proof.Machine.execXra r1 rest s
  | .pop r1 rest => Sys2Proof.Machine.execPop r1 rest s
  | .jnz f => Sys2Proof.Machine.execJnz f s
  | .jmp f => Sys2Proof.Machine.execJmp f s
  | .push r1 rest => Sys2Proof.Machine.execPush r1 rest s
  | .adi f => Sys2Proof.Machine.execAdi f s
  | .ret f => Sys2Proof.Machine.execRet f s
  | .jz f => Sys2Proof.Machine.execJz f s
  | .call f => Sys2Proof.Machine.execCall f s
  | .jnc f => Sys2Proof.Machine.execJnc f s
  | .out f => Sys2Proof.Machine.execOut f s
  | .sui f => Sys2Proof.Machine.execSui f s
  | .inp f => Sys2Proof.Machine.execInp f s
  | .ani f => Sys2Proof.Machine.execAni f s
  | .xchg f => Sys2Proof.Machine.execXchg f s
  | .ei f => Sys2Proof.Machine.execEi f s
  | .cpi f => Sys2Proof.Machine.execCpi f s
  | .unimpl u => Sys2Proof.Machine.execUnimpl u s

end Sys2Proof.Machine
end

