-- ==== Sys2Proof/Machine/Control.lean ====
section
/-! DEFINITION. The control unit (spec/40_execution_model.md R100 to R104): fetching, `EXEC`, `CYCLE`, `RUN`, and the
platform's moves between cycles (R114). -/

namespace Sys2Proof.Machine

/-- `DECODE(addr)` (spec/30_encoding.md R76): the opcode byte, then the operand bytes its format has, in
ascending order and wrapping at the top of memory (decision D21). It fails only where a byte is unmapped.
An unimplemented byte reads no operand byte (log entry 10). -/
def fetchAt (s : State) (a : Word) : Except Fault Record :=
  match memRead s a with
  | .error e => .error e
  | .ok b0 =>
    match (opcode b0).1 with
    | .f1 => .ok (assemble b0 0 0)
    | .unimplemented => .ok (assemble b0 0 0)
    | .f2 =>
      match memRead s (a + 1) with
      | .error e => .error e
      | .ok b1 => .ok (assemble b0 b1 0)
    | .f3 =>
      match memRead s (a + 1) with
      | .error e => .error e
      | .ok b1 =>
        match memRead s (a + 2) with
        | .error e => .error e
        | .ok b2 => .ok (assemble b0 b1 b2)

/-- Step 2 of `EXEC` (R103): an interrupt instruction clears `INTE` and does not advance `PC`; an ordinary one
advances `PC` by the record's length. -/
def enter (rec : Record) (isInterrupt : Bool) (s : State) : State :=
  if isInterrupt then s.setInte false else s.setPc (s.pc + rec.fields.len.toWord)

/-- `EXEC(rec, is_interrupt)` (R103). The trace and the markers of steps 1, 3 and 5 have no effect (R115). -/
def execRecord (rec : Record) (isInterrupt : Bool) (s : State) : Result :=
  exec rec (enter rec isInterrupt s)

/-- The second half of `CYCLE` (R100): fetch and execute one ordinary instruction if `PC` is in the program
region. -/
def ordinary (s : State) : Result :=
  if s.pc.toNat < s.params.progLen then
    orRaise (fetchAt s s.pc) s fun rec => execRecord rec false s
  else .next s

/-- `CYCLE()` (R100): `INTE` and the slot are tested once, at the start; an error in the interrupt instruction
ends the cycle. -/
def cycle (s : State) : Result :=
  match takeInterrupt (s.setAnswer (some .ok)) with
  | none => ordinary (s.setAnswer (some .ok))
  | some (rec, s1) =>
    match execRecord rec true s1 with
    | .next s2 => if s2.failed then .next s2 else ordinary s2
    | .fault e => .fault e
    | .refused r => .refused r

/-- One turn of the loop of `RUN()` (R101), `rest` being the platform's moves after the run: when the condition
fails the run has ended, and an error stops the run (log entry 19). -/
def runTurn (rest : List PlatformMove) (s : State) : Result :=
  if s.pc.toNat < s.params.progLen then
    match cycle s with
    | .next t => .next (if t.failed then t.setMoves rest else t)
    | .fault e => .fault e
    | .refused r => .refused r
  else .next ((s.setMoves rest).setAnswer (some .ended))

/-- The platform's next move (R114, log entries 5 and 11). With no move left the platform requests a cycle. -/
def platformStep (s : State) : Result :=
  match s.moves with
  | [] => cycle s
  | .cycle :: rest => cycle (s.setMoves rest)
  | .run :: rest => runTurn rest s
  | .generate rec :: rest => .next (generate (s.setMoves rest) rec)
  | .poke addr v :: rest => .next ((s.setMoves rest).setMem (s.mem.write addr.toNat v))
  | .reset :: rest => .next (warmReset (s.setMoves rest))

/-- The memory map with an address made readable, if it was unmapped. -/
def mapForFetch (regions : List Region) (a : Word) : List Region :=
  match classOf regions a with
  | .unmapped => { base := a.toNat, size := 1, cls := .rw } :: regions
  | .rw => regions
  | .ro => regions

/-- The state with the three bytes of an instruction placed at `PC`, that address inside the program region,
the bytes readable, and nothing that the next step would do first (log entry 20). -/
def placeAtPc (s : State) (b0 b1 b2 : Byte) : State :=
  { s with
    mem := ((s.mem.write s.pc.toNat b0).write (s.pc + 1).toNat b1).write (s.pc + 2).toNat b2
    params :=
      { s.params with
        progLen := max s.params.progLen (s.pc.toNat + 3)
        regions :=
          mapForFetch (mapForFetch (mapForFetch s.params.regions s.pc) (s.pc + 1)) (s.pc + 2) }
    pending := if s.inte then none else s.pending
    moves := if s.moves = [] then [] else .cycle :: s.moves }

end Sys2Proof.Machine
end

