-- ==== Sys2Proof/Machine/Step.lean ====
section
/-! DEFINITION. One step of the machine: the platform's next move, which by default is one `CYCLE()`
(spec/40_execution_model.md R114); and how an instruction is placed where the next step fetches. -/

namespace Sys2Proof.Machine

def step (s : State) : Host.Outcome State Fault Refusal := platformStep s

/-- `s` with the instruction whose bits are `w` (those above `nbits` zero) stored where the next step fetches:
this is the platform's loading of a program of that instruction (log entry 6). -/
def State.withFetchWord (s : State) (nbits w : Nat) : State :=
  placeAtPc s (byteOfBits (w % 2 ^ nbits) 0) (byteOfBits (w % 2 ^ nbits) 1) (byteOfBits (w % 2 ^ nbits) 2)

end Sys2Proof.Machine
end

