-- ==== Sys2Proof/Safety.lean ====
section
/-! DEFINITION. What counts as a safe step, and the spec's own tables of what an instruction may write, in the
terms the statements use. -/

namespace Sys2Proof.Machine

/-- The machine goes on: neither a fault nor a refusal. -/
def Runs (r : Result) : Prop := ∃ t, r = .next t

/-- Every address has a region (spec/20_memory.md R41): no access can be an `AddressFault`. -/
def State.FullyMapped (s : State) : Prop := ∀ a : Word, s.classAt a ≠ .unmapped

/-- The regions stay inside the address space and no two overlap (R41). The model does not need this: where
regions overlap the first one decides (log entry 2). -/
def Params.regionsDisjoint (p : Params) : Bool :=
  (p.regions.all fun r => decide (r.base + r.size ≤ 65536)) &&
    decide (p.regions.Pairwise fun x y => x.base + x.size ≤ y.base ∨ y.base + y.size ≤ x.base)

/-- The platform's next move is a cycle: asked for, or the one it makes by default (log entry 5). -/
def State.CycleNext (s : State) : Prop := s.moves = [] ∨ ∃ rest, s.moves = .cycle :: rest

/-- The state invariant: memory is in its canonical form. -/
def State.Inv (s : State) : Prop := s.mem.wf = true

/-- The states reachable from `s`. -/
inductive Reaches (s : State) : State → Prop where
  | refl : Reaches s s
  | tail {t u : State} : Reaches s t → step t = .next u → Reaches s u

/-! ## What the flags must be, bit by bit -/

/-- The four flags of a result (spec/40_execution_model.md R112): bit 7, zero, an even number of set bits,
and the given carry. -/
def resultFlags (v : Byte) (cy : Bool) : Flags :=
  { s := v.getLsbD 7
    z := decide (v.toNat = 0)
    p := decide ((List.range 8).countP (fun k => v.getLsbD k) % 2 = 0)
    cy := cy }

/-! ## What a store leaves -/

/-- After a store of `v` at `addr`: a read/write address holds `v`, and every other byte (and the byte at a
read-only address) reads as before (spec/20_memory.md R43). -/
def StoredByte (s : State) (addr : Word) (v : Byte) (t : State) : Prop :=
  (s.classAt addr = .rw → memRead t addr = .ok v) ∧
    ∀ b : Word, b ≠ addr ∨ s.classAt addr ≠ .rw → memRead t b = memRead s b

/-- After a push of `v` from state `s`: its high byte at `SP-1` and its low byte at `SP-2`, where those
addresses are read/write, and every other byte as before (spec/41_data_transfer.md R147). -/
def StoredOnStack (s : State) (v : Word) (t : State) : Prop :=
  (s.classAt (s.sp - 1) = .rw → memRead t (s.sp - 1) = .ok (BitVec.ofNat 8 (v.toNat / 256))) ∧
    (s.classAt (s.sp - 2) = .rw → memRead t (s.sp - 2) = .ok (BitVec.ofNat 8 v.toNat)) ∧
    ∀ b : Word, (b ≠ s.sp - 1 ∧ b ≠ s.sp - 2) ∨ s.classAt b ≠ .rw → memRead t b = memRead s b

/-- The bytes of `bs` stand at `pc` and the addresses after it (modulo 2^16), each in a region. -/
def BytesAt (s : State) (pc : Word) (bs : List Byte) : Prop :=
  ∀ k (hk : k < bs.length), memRead s (pc + BitVec.ofNat 16 k) = .ok bs[k]

/-! ## The tables of what an instruction writes -/

/-- The registers of a pair (spec/10_state.md R11); `SP` names none of the seven. -/
def pairHolds (rp r : Reg) : Bool :=
  match rp with
  | .b => decide (r = .b ∨ r = .c)
  | .d => decide (r = .d ∨ r = .e)
  | .h => decide (r = .h ∨ r = .l)
  | .a | .c | .e | .l | .m | .sp => false

/-- Which of the seven registers an instruction may write: the column "writes" of spec/10_state.md R31. -/
def writesReg (i : Instr) (r : Reg) : Bool :=
  match i with
  | .lxi _ _ | .inx _ _ | .dcx _ _ | .pop _ _ => i.fields.r1.any fun rp => pairHolds rp r
  | .ldax _ _ | .lda _ | .add _ _ | .sub _ _ | .ana _ _ | .xra _ _ | .adi _ | .sui _ | .ani _
  | .rrc _ | .inp _ => decide (r = .a)
  | .mov _ _ _ | .mvi _ _ | .inr _ _ | .dcr _ _ => decide (i.fields.r1 = some r)
  | .dad _ _ => pairHolds .h r
  | .xchg _ => pairHolds .h r || pairHolds .d r
  | .nop _ | .sta _ | .push _ _ | .jnz _ | .jmp _ | .jz _ | .jnc _ | .call _ | .ret _ | .out _
  | .ei _ | .cpi _ | .unimpl _ => false

/-- Which instructions write `S`, `Z` and `P`: the table of spec/40_execution_model.md R113. -/
def writesSZP : Instr → Bool
  | .inr _ _ | .dcr _ _ | .add _ _ | .adi _ | .sub _ _ | .sui _ | .cpi _ | .ana _ _ | .xra _ _ | .ani _ => true
  | .nop _ | .lxi _ _ | .inx _ _ | .mvi _ _ | .dad _ _ | .ldax _ _ | .dcx _ _ | .rrc _ | .sta _
  | .lda _ | .mov _ _ _ | .pop _ _ | .jnz _ | .jmp _ | .push _ _ | .ret _ | .jz _ | .call _ | .jnc _
  | .out _ | .inp _ | .xchg _ | .ei _ | .unimpl _ => false

/-- Which instructions write `CY`: the table of R113. -/
def writesCY : Instr → Bool
  | .add _ _ | .adi _ | .sub _ _ | .sui _ | .cpi _ | .ana _ _ | .xra _ _ | .ani _ | .dad _ _ | .rrc _ => true
  | .inr _ _ | .dcr _ _ | .nop _ | .lxi _ _ | .inx _ _ | .mvi _ _ | .ldax _ _ | .dcx _ _ | .sta _
  | .lda _ | .mov _ _ _ | .pop _ _ | .jnz _ | .jmp _ | .push _ _ | .ret _ | .jz _ | .call _ | .jnc _
  | .out _ | .inp _ | .xchg _ | .ei _ | .unimpl _ => false

/-- Which instructions write `SP` in step 4 (R13). -/
def writesSp (i : Instr) : Bool :=
  match i with
  | .lxi _ _ | .inx _ _ | .dcx _ _ => decide (i.fields.r1 = some .sp)
  | .push _ _ | .pop _ _ | .call _ | .ret _ => true
  | .nop _ | .inr _ _ | .dcr _ _ | .mvi _ _ | .dad _ _ | .ldax _ _ | .rrc _ | .sta _ | .lda _
  | .mov _ _ _ | .add _ _ | .sub _ _ | .ana _ _ | .xra _ _ | .jnz _ | .jmp _ | .adi _ | .jz _
  | .jnc _ | .out _ | .sui _ | .inp _ | .ani _ | .xchg _ | .ei _ | .cpi _ | .unimpl _ => false

/-- Which instructions write `PC` in step 4 (R14). -/
def writesPc : Instr → Bool
  | .jmp _ | .jz _ | .jnz _ | .jnc _ | .call _ | .ret _ => true
  | .nop _ | .lxi _ _ | .inx _ _ | .inr _ _ | .dcr _ _ | .mvi _ _ | .dad _ _ | .ldax _ _ | .dcx _ _
  | .rrc _ | .sta _ | .lda _ | .mov _ _ _ | .add _ _ | .sub _ _ | .ana _ _ | .xra _ _ | .pop _ _
  | .push _ _ | .adi _ | .out _ | .sui _ | .inp _ | .ani _ | .xchg _ | .ei _ | .cpi _ | .unimpl _ => false

/-- The addresses an instruction stores to (spec/20_memory.md R49), from the state its operation sees. -/
def storeAddrs (i : Instr) (s : State) : List Word :=
  match i with
  | .sta _ =>
    match i.fields.data with
    | .d16 addr => [addr]
    | .none => []
    | .d8 _ => []
  | .mov _ _ _ | .mvi _ _ | .inr _ _ | .dcr _ _ => if i.fields.r1 = some .m then [s.hl] else []
  | .push _ _ | .call _ => [s.sp - 1, s.sp - 2]
  | .nop _ | .lxi _ _ | .inx _ _ | .dad _ _ | .ldax _ _ | .dcx _ _ | .rrc _ | .lda _ | .add _ _
  | .sub _ _ | .ana _ _ | .xra _ _ | .pop _ _ | .jnz _ | .jmp _ | .adi _ | .ret _ | .jz _ | .jnc _
  | .out _ | .sui _ | .inp _ | .ani _ | .xchg _ | .ei _ | .cpi _ | .unimpl _ => []

end Sys2Proof.Machine
end

