-- ==== Sys2Proof/Certificates/Slice0/Obligations.lean ====
section
/-! DEFINITION. The statements about the model, each named for what it says. Rules R<n> are those of spec/.
"Step 4" is `exec`: `PC` has already been advanced when it runs (spec/40_execution_model.md R103). -/

open Sys2Proof Sys2Proof.Machine

/-! ## Encoding -/

/-- Words written out from the patterns of R71 and the codes of R72, R73 decode to their records, one or more
per family. The byte values are the spec's decision D2. -/
def Obligations.SampleWordsDecode : Prop :=
  decode [0b00000000] = .ok (.nop (.bare .none .one), []) ∧
  decode [0b00100001, 0x34, 0x12] = .ok (.lxi (some .h) (.bare (.d16 0x1234) .three), []) ∧
  decode [0b00011010] = .ok (.ldax (some .d) (.bare .none .one), []) ∧
  decode [0b00110110, 0xA5] = .ok (.mvi (some .m) (.bare (.d8 0xA5) .two), []) ∧
  decode [0b01111110] = .ok (.mov (some .a) (some .m) ⟨.none, .one⟩, []) ∧
  decode [0b11000101] = .ok (.push (some .b) (.bare .none .one), []) ∧
  decode [0b00110100] = .ok (.inr (some .m) (.bare .none .one), []) ∧
  decode [0b00111001] = .ok (.dad (some .sp) (.bare .none .one), []) ∧
  decode [0b10010011] = .ok (.sub (some .e) (.bare .none .one), []) ∧
  decode [0b10101101] = .ok (.xra (some .l) (.bare .none .one), []) ∧
  decode [0b11111110, 0x40] = .ok (.cpi (.bare (.d8 0x40) .two), []) ∧
  decode [0b11010010, 0x34, 0x12] = .ok (.jnc (.bare (.d16 0x1234) .three), []) ∧
  decode [0b11011011, 0x01] = .ok (.inp (.bare (.d8 0x01) .two), []) ∧
  decode [0b01110110] = .ok (.unimpl ⟨0x76, .bare .none (Config.unimplLen 0x76)⟩, [])

/-- The 95 bytes listed in R78 are exactly those the decoder calls unimplemented, so 161 are implemented (R77);
and each decodes to `UNIMPL` of itself with the open length (R79). -/
def Obligations.UnimplementedBytesAreThoseListed : Prop :=
  unimplementedBytes.length = 95 ∧ unimplementedBytes.Nodup ∧
  (∀ b : Byte, (opcode b).1 = .unimplemented ↔ b ∈ unimplementedBytes) ∧
  ∀ (b : Byte) (rest : List Byte), b ∈ unimplementedBytes →
    decode (b :: rest) = .ok (.unimpl ⟨b, .bare .none (Config.unimplLen b)⟩, rest)

/-- Every well-formed record has an encoding, and a record with the length `DECODE` reports, every operand at
every value the encoding admits, is what its encoding decodes to, the bytes after it left over. -/
def Obligations.DecodeOfEncodeIsIdentity : Prop :=
  (∀ i : Instr, i.wf = true → ∃ bs, encode i = some bs) ∧
  ∀ (i : Instr) (bs : List Byte), i.fetchable = true → encode i = some bs →
    ∀ rest : List Byte, decode (bs ++ rest) = .ok (i, rest)

/-- What the decoder returns is well-formed (R80: every record `DECODE` returns is), with the length of its
format, and encoding it gives back the bytes it was read from: no two byte strings decode to one record. -/
def Obligations.DecodedRecordIsWellFormedAndReencodes : Prop :=
  ∀ (bytes : List Byte) (rec : Record) (rest : List Byte), decode bytes = .ok (rec, rest) →
    rec.wf = true ∧ rec.fetchable = true ∧ ∃ bs, encode rec = some bs ∧ bytes = bs ++ rest

/-- The payload is byte 1 as it is, or `byte2 * 256 + byte1` (R74, R76), and the length that of the format;
`(opcode b0).2` is the opcode tag with its designators. -/
def Obligations.OperandBytesAreLittleEndian : Prop :=
  ∀ (b0 b1 b2 : Byte) (rest : List Byte),
    ((opcode b0).1 = .f2 →
      decode (b0 :: b1 :: rest) = .ok ((opcode b0).2 (.d8 b1) .two, rest)) ∧
    ((opcode b0).1 = .f3 → ∃ w : Word, w.toNat = b2.toNat * 256 + b1.toNat ∧
      decode (b0 :: b1 :: b2 :: rest) = .ok ((opcode b0).2 (.d16 w) .three, rest)) ∧
    ((opcode b0).1 = .f1 → decode (b0 :: rest) = .ok ((opcode b0).2 .none .one, rest))

/-! ## Ill-formed records -/

/-- A payload of the wrong kind raises `InvalidInstructionData` with the whole record (R260), whatever the
designators, present or absent (check (ii) comes before check (iii), R105), and whatever the length. That a
payload too large is refused is decision D14, the order D12. -/
def Obligations.WrongPayloadRaisesInvalidData : Prop :=
  ∀ (s : State) (x y : Option Reg) (data : Payload) (n : Len),
    (data.isNone = false →
      ∀ i ∈ [Instr.nop ⟨x, y, data, n⟩, .inx x ⟨y, data, n⟩, .inr x ⟨y, data, n⟩, .dcr x ⟨y, data, n⟩,
          .dad x ⟨y, data, n⟩, .ldax x ⟨y, data, n⟩, .dcx x ⟨y, data, n⟩, .rrc ⟨x, y, data, n⟩,
          .mov x y ⟨data, n⟩, .add x ⟨y, data, n⟩, .sub x ⟨y, data, n⟩, .ana x ⟨y, data, n⟩,
          .xra x ⟨y, data, n⟩, .pop x ⟨y, data, n⟩, .push x ⟨y, data, n⟩, .ret ⟨x, y, data, n⟩,
          .xchg ⟨x, y, data, n⟩, .ei ⟨x, y, data, n⟩],
        exec i s = raiseError (.invalidInstructionData i) s) ∧
    (data.isD8 = false →
      ∀ i ∈ [Instr.mvi x ⟨y, data, n⟩, .adi ⟨x, y, data, n⟩, .out ⟨x, y, data, n⟩, .sui ⟨x, y, data, n⟩,
          .inp ⟨x, y, data, n⟩, .ani ⟨x, y, data, n⟩, .cpi ⟨x, y, data, n⟩],
        exec i s = raiseError (.invalidInstructionData i) s) ∧
    (data.isD16 = false →
      ∀ i ∈ [Instr.lxi x ⟨y, data, n⟩, .sta ⟨x, y, data, n⟩, .lda ⟨x, y, data, n⟩, .jnz ⟨x, y, data, n⟩,
          .jmp ⟨x, y, data, n⟩, .jz ⟨x, y, data, n⟩, .call ⟨x, y, data, n⟩, .jnc ⟨x, y, data, n⟩],
        exec i s = raiseError (.invalidInstructionData i) s)

/-- A designator that R80 does not allow, an absent `r1` or a superfluous one, with the right payload, raises
its error with the whole record, and nothing else happens (R260, R262, R263, decision D13). The model's choices:
the order of the two register errors, and `UnsupportedRegister` for `INR` to `XRA` and `MOV` with a designator
missing or superfluous (log entry 8); `InvalidInstructionData` for a superfluous designator where it is the
row's only error (log entry 9). -/
def Obligations.WrongDesignatorRaisesItsError : Prop :=
  ∀ (s : State) (x y : Option Reg) (v : Byte) (w : Word) (n : Len),
    (x.any Reg.isOperand16 = false ∨ y ≠ none →
      ∀ i ∈ [Instr.lxi x ⟨y, .d16 w, n⟩, .inx x ⟨y, .none, n⟩, .dcx x ⟨y, .none, n⟩, .dad x ⟨y, .none, n⟩],
        exec i s = raiseError (.unsupportedRegister i) s) ∧
    (x.any Reg.isIndexOperand = false ∨ y ≠ none →
      exec (.ldax x ⟨y, .none, n⟩) s = raiseError (.unsupportedRegister (.ldax x ⟨y, .none, n⟩)) s) ∧
    (x.any Reg.isStackOperand = false ∨ y ≠ none →
      ∀ i ∈ [Instr.push x ⟨y, .none, n⟩, .pop x ⟨y, .none, n⟩],
        exec i s = raiseError (.unsupportedRegister i) s) ∧
    (x.any Reg.isOperand8 = false ∨ y ≠ none →
      exec (.mvi x ⟨y, .d8 v, n⟩) s = raiseError (.unsupportedRegister (.mvi x ⟨y, .d8 v, n⟩)) s) ∧
    (∀ i ∈ [Instr.inr x ⟨y, .none, n⟩, .dcr x ⟨y, .none, n⟩, .add x ⟨y, .none, n⟩, .sub x ⟨y, .none, n⟩,
        .ana x ⟨y, .none, n⟩, .xra x ⟨y, .none, n⟩],
      (x = some .sp → exec i s = raiseError (.registerNot8Bit i) s) ∧
      (x = none ∨ (x ≠ some .sp ∧ y ≠ none) → exec i s = raiseError (.unsupportedRegister i) s)) ∧
    (y = some .sp → exec (.mov x y ⟨.none, n⟩) s = raiseError (.registerNot8Bit (.mov x y ⟨.none, n⟩)) s) ∧
    (y ≠ some .sp → y = none ∨ x.any Reg.isOperand8 = false ∨ (x = some .m ∧ y = some .m) →
      exec (.mov x y ⟨.none, n⟩) s = raiseError (.unsupportedRegister (.mov x y ⟨.none, n⟩)) s) ∧
    (x ≠ none ∨ y ≠ none →
      ∀ i ∈ [Instr.sta ⟨x, y, .d16 w, n⟩, .lda ⟨x, y, .d16 w, n⟩, .jmp ⟨x, y, .d16 w, n⟩,
          .jz ⟨x, y, .d16 w, n⟩, .jnz ⟨x, y, .d16 w, n⟩, .jnc ⟨x, y, .d16 w, n⟩, .call ⟨x, y, .d16 w, n⟩,
          .adi ⟨x, y, .d8 v, n⟩, .sui ⟨x, y, .d8 v, n⟩, .ani ⟨x, y, .d8 v, n⟩, .cpi ⟨x, y, .d8 v, n⟩,
          .out ⟨x, y, .d8 v, n⟩, .inp ⟨x, y, .d8 v, n⟩],
        exec i s = raiseError (.invalidInstructionData i) s)

/-- A record the decoder could have produced never raises one of the three record errors, under either error
policy (R262, R263, R264): it stops or reports only `AddressFault`, `UnsupportedPort` or, for an unimplemented
byte, `UnimplementedInstruction`. -/
def Obligations.WellFormedInstructionRaisesNoRecordError : Prop :=
  ∀ (i : Instr) (s : State), i.wf = true →
    (∀ e, exec i s = .fault e →
      (∃ a, e = .addressFault a) ∨ (∃ p d, e = .unsupportedPort p d) ∨
        ∃ u, i = .unimpl u ∧ e = .unimplementedInstruction u.byte) ∧
    (∀ t e, exec i s = .next t → t.answer = some (.error e) → s.answer ≠ some (.error e) →
      (∃ p d, e = .unsupportedPort p d) ∨ ∃ u, i = .unimpl u ∧ e = .unimplementedInstruction u.byte)

/-! ## Register accessors -/

/-- `Rd8` and `Wr8` (R26, R27, decision D13) for every designator: the seven registers, `M` as memory at
`H * 256 + L`, and the two errors for `SP`. -/
def Obligations.ByteOperandAccessors : Prop :=
  ∀ (i : Instr) (s : State) (v : Byte),
    (rd8 i .a s = .ok s.a ∧ rd8 i .b s = .ok s.b ∧ rd8 i .c s = .ok s.c ∧ rd8 i .d s = .ok s.d ∧
      rd8 i .e s = .ok s.e ∧ rd8 i .h s = .ok s.h ∧ rd8 i .l s = .ok s.l ∧
      rd8 i .m s = memRead s (BitVec.ofNat 16 (s.h.toNat * 256 + s.l.toNat)) ∧
      rd8 i .sp s = .error (.registerNot8Bit i)) ∧
    (wr8 i .a v s = .ok { s with a := v } ∧ wr8 i .b v s = .ok { s with b := v } ∧
      wr8 i .c v s = .ok { s with c := v } ∧ wr8 i .d v s = .ok { s with d := v } ∧
      wr8 i .e v s = .ok { s with e := v } ∧ wr8 i .h v s = .ok { s with h := v } ∧
      wr8 i .l v s = .ok { s with l := v } ∧
      wr8 i .m v s = memWrite s (BitVec.ofNat 16 (s.h.toNat * 256 + s.l.toNat)) v ∧
      wr8 i .sp v s = .error (.unsupportedRegister i))

/-- `RdRP` (R28): the pairs are `high * 256 + low`, `SP` is itself, and any other designator raises
`UnsupportedRegister`. -/
def Obligations.PairRead : Prop :=
  ∀ (i : Instr) (s : State),
    rdRP i .b s = .ok (BitVec.ofNat 16 (s.b.toNat * 256 + s.c.toNat)) ∧
    rdRP i .d s = .ok (BitVec.ofNat 16 (s.d.toNat * 256 + s.e.toNat)) ∧
    rdRP i .h s = .ok (BitVec.ofNat 16 (s.h.toNat * 256 + s.l.toNat)) ∧
    rdRP i .sp s = .ok s.sp ∧
    ∀ r ∈ [Reg.a, .c, .e, .l, .m], rdRP i r s = .error (.unsupportedRegister i)

/-- `WrRP` (R29): both halves of the pair in one transition, or `SP`, or `UnsupportedRegister`. -/
def Obligations.PairWrite : Prop :=
  ∀ (i : Instr) (s : State) (v : Word),
    wrRP i .b v s = .ok { s with b := BitVec.ofNat 8 (v.toNat / 256), c := BitVec.ofNat 8 v.toNat } ∧
    wrRP i .d v s = .ok { s with d := BitVec.ofNat 8 (v.toNat / 256), e := BitVec.ofNat 8 v.toNat } ∧
    wrRP i .h v s = .ok { s with h := BitVec.ofNat 8 (v.toNat / 256), l := BitVec.ofNat 8 v.toNat } ∧
    wrRP i .sp v s = .ok { s with sp := v } ∧
    ∀ r ∈ [Reg.a, .c, .e, .l, .m], wrRP i r v s = .error (.unsupportedRegister i)

/-! ## The ALU and the flags model -/

/-- `add8` (R106): the sum modulo 256, and the carry out of bit 7; with the source's two examples. -/
def Obligations.AddBytes : Prop :=
  (∀ a b : Byte, (add8 a b).1 = a + b ∧ ((add8 a b).2 = true ↔ 256 ≤ a.toNat + b.toNat)) ∧
  add8 0x2E 0x6C = (0x9A, false) ∧ add8 0x9A 0x9A = (0x34, true)

/-- `sub8` (R107, decision D8): the difference modulo 256 and the borrow, for every pair, the subtrahend zero
included. -/
def Obligations.SubtractBytes : Prop :=
  (∀ a b : Byte, (sub8 a b).1 = a - b ∧ ((sub8 a b).2 = true ↔ a.toNat < b.toNat)) ∧
  (∀ a : Byte, sub8 a a = (0, false) ∧ sub8 a 0 = (a, false)) ∧ sub8 0 1 = (0xFF, true)

/-- `inc8`, `dec8` (R108) and `and8`, `xor8` bit by bit (R109). -/
def Obligations.StepAndLogicBytes : Prop :=
  (∀ a : Byte, (inc8 a).toNat = (a.toNat + 1) % 256 ∧ (dec8 a).toNat = (a.toNat + 255) % 256 ∧
    dec8 a = a - 1) ∧
  inc8 0xFF = 0x00 ∧ dec8 0x00 = 0xFF ∧
  ∀ (a b : Byte) (k : Nat), k < 8 →
    (and8 a b).getLsbD k = (a.getLsbD k && b.getLsbD k) ∧
    (xor8 a b).getLsbD k = (a.getLsbD k != b.getLsbD k)

/-- `rrc8` (R110): bit 7 of the result and the carry are bit 0 of `a`; bits 6:0 are bits 7:1. -/
def Obligations.RotateRightByte : Prop :=
  (∀ a : Byte, (rrc8 a).2 = a.getLsbD 0 ∧ (rrc8 a).1.getLsbD 7 = a.getLsbD 0 ∧
    ∀ k, k < 7 → (rrc8 a).1.getLsbD k = a.getLsbD (k + 1)) ∧
  rrc8 0x01 = (0x80, true) ∧ rrc8 0x02 = (0x01, false)

/-- `add16`, `inc16`, `dec16` (R111). -/
def Obligations.WordArithmetic : Prop :=
  (∀ x y : Word, (add16 x y).1 = x + y ∧ ((add16 x y).2 = true ↔ 65536 ≤ x.toNat + y.toNat)) ∧
  (∀ x : Word, inc16 x = x + 1 ∧ dec16 x = x - 1) ∧
  inc16 0xFFFF = 0x0000 ∧ dec16 0x0000 = 0xFFFF

/-- `SetSZP` (R112): `S` is bit 7, `Z` is zero, `P` an even number of set bits; `CY` is untouched, and the old
`S`, `Z`, `P` have no influence. -/
def Obligations.FlagsFromResult : Prop :=
  (∀ (v : Byte) (f : Flags), setSZP v f = resultFlags v f.cy) ∧
  ∀ f : Flags, setSZP 0x00 f = { s := false, z := true, p := true, cy := f.cy }

/-! ## Memory -/

/-- `MemRead` of one byte and of two (R42, R46): the stored byte where the address has a region, else
`AddressFault`; two bytes little-endian, the second address modulo 2^16. -/
def Obligations.MemoryRead : Prop :=
  ∀ (s : State) (a : Word),
    (s.classAt a = .rw ∨ s.classAt a = .ro → memRead s a = .ok (s.mem.read a.toNat)) ∧
    (s.classAt a = .unmapped → memRead s a = .error (.addressFault a)) ∧
    (∀ lo hi : Byte, memRead s a = .ok lo → memRead s (a + 1) = .ok hi →
      memRead16 s a = .ok (BitVec.ofNat 16 (hi.toNat * 256 + lo.toNat)))

/-- `MemWrite` (R43): a read/write address takes the byte and every other byte and register stays; a write to a
read-only address is ignored without error; an unmapped address raises `AddressFault`. -/
def Obligations.MemoryWrite : Prop :=
  ∀ (s : State) (a : Word) (v : Byte),
    (s.classAt a = .rw → s.mem.wf = true → ∃ t, memWrite s a v = .ok t ∧
      t = { s with mem := t.mem } ∧ memRead t a = .ok v ∧
      ∀ b, b ≠ a → memRead t b = memRead s b) ∧
    (s.classAt a = .ro → memWrite s a v = .ok s) ∧
    (s.classAt a = .unmapped → memWrite s a v = .error (.addressFault a))

/-- `PUSH r; POP r'` restores the 16-bit value and `SP`, when both stack addresses are read/write (R148, V4). -/
def Obligations.PopAfterPushRestores : Prop :=
  ∀ (s : State) (r q : Reg) (n m : Len), r.isStackOperand = true → q.isStackOperand = true →
    s.mem.wf = true → s.classAt (s.sp - 1) = .rw → s.classAt (s.sp - 2) = .rw →
    ∃ t u v, exec (.push (some r) (.bare .none n)) s = .next t ∧
      exec (.pop (some q) (.bare .none m)) t = .next u ∧
      rdRP (.push (some r) (.bare .none n)) r s = .ok v ∧
        rdRP (.pop (some q) (.bare .none m)) q u = .ok v ∧ u.sp = s.sp

/-- A `RET` from a subroutine that leaves the stack alone goes back to the `PC` that `CALL` saw, wherever the
subroutine's own `PC` has got to (R224, R225, decision D23). -/
def Obligations.ReturnAfterCallRestores : Prop :=
  ∀ (s : State) (target pc' : Word) (x y : Option Reg) (n m : Len), s.mem.wf = true →
    s.classAt (s.sp - 1) = .rw → s.classAt (s.sp - 2) = .rw →
    ∃ t u, exec (.call (.bare (.d16 target) n)) s = .next t ∧ t.pc = target ∧
      exec (.ret ⟨x, y, .none, m⟩) { t with pc := pc' } = .next u ∧ u.pc = s.pc ∧ u.sp = s.sp

/-! ## Data transfer and stack -/

/-- `LXI` (R140; that `SP` is accepted is decision D3). -/
def Obligations.LxiLoadsPair : Prop :=
  ∀ (s : State) (v : Word) (n : Len),
    exec (.lxi (some .b) (.bare (.d16 v) n)) s =
      .next { s with b := BitVec.ofNat 8 (v.toNat / 256), c := BitVec.ofNat 8 v.toNat } ∧
    exec (.lxi (some .d) (.bare (.d16 v) n)) s =
      .next { s with d := BitVec.ofNat 8 (v.toNat / 256), e := BitVec.ofNat 8 v.toNat } ∧
    exec (.lxi (some .h) (.bare (.d16 v) n)) s =
      .next { s with h := BitVec.ofNat 8 (v.toNat / 256), l := BitVec.ofNat 8 v.toNat } ∧
    exec (.lxi (some .sp) (.bare (.d16 v) n)) s = .next { s with sp := v }

/-- `LDAX`, `LDA` load `A` and `STA` stores it (R141, R142, R143; the directions are decision D9); at an
unmapped address each stops with `AddressFault`. -/
def Obligations.AccumulatorLoadsAndStore : Prop :=
  ∀ (s : State) (addr : Word) (v : Byte) (n : Len),
    (∀ r ∈ [Reg.b, .d], rdRP (.ldax (some r) (.bare .none n)) r s = .ok addr → memRead s addr = .ok v →
      exec (.ldax (some r) (.bare .none n)) s = .next { s with a := v }) ∧
    (∀ r ∈ [Reg.b, .d], rdRP (.ldax (some r) (.bare .none n)) r s = .ok addr → s.classAt addr = .unmapped →
      exec (.ldax (some r) (.bare .none n)) s = .fault (.addressFault addr)) ∧
    (memRead s addr = .ok v → exec (.lda (.bare (.d16 addr) n)) s = .next { s with a := v }) ∧
    (s.classAt addr = .unmapped → exec (.lda (.bare (.d16 addr) n)) s = .fault (.addressFault addr)) ∧
    (s.mem.wf = true → s.classAt addr ≠ .unmapped → ∃ t, exec (.sta (.bare (.d16 addr) n)) s = .next t ∧
      t = { s with mem := t.mem } ∧ StoredByte s addr s.a t) ∧
    (s.classAt addr = .unmapped → exec (.sta (.bare (.d16 addr) n)) s = .fault (.addressFault addr))

/-- `MOV` and `MVI` (R144, R145): `Wr8(d, Rd8(s))` and `Wr8(r, d8)`, and `AddressFault` where `M` is an operand
and H:L is unmapped. -/
def Obligations.MovAndMviCopy : Prop :=
  ∀ (s t : State) (dst src : Reg) (v : Byte) (n : Len),
    (dst.isOperand8 = true → src.isOperand8 = true → ¬(dst = .m ∧ src = .m) →
      rd8 (.mov (some dst) (some src) ⟨.none, n⟩) src s = .ok v →
        wr8 (.mov (some dst) (some src) ⟨.none, n⟩) dst v s = .ok t →
      exec (.mov (some dst) (some src) ⟨.none, n⟩) s = .next t) ∧
    (dst.isOperand8 = true → src.isOperand8 = true → ¬(dst = .m ∧ src = .m) →
      dst = .m ∨ src = .m → s.classAt s.hl = .unmapped →
      exec (.mov (some dst) (some src) ⟨.none, n⟩) s = .fault (.addressFault s.hl)) ∧
    (wr8 (.mvi (some dst) (.bare (.d8 v) n)) dst v s = .ok t →
      exec (.mvi (some dst) (.bare (.d8 v) n)) s = .next t) ∧
    (s.classAt s.hl = .unmapped → exec (.mvi (some .m) (.bare (.d8 v) n)) s = .fault (.addressFault s.hl))

/-- `XCHG` (R146): H and D swap, L and E swap, nothing else changes; two in a row restore the state. Designators
in the record are ignored (R80). -/
def Obligations.XchgSwapsPairs : Prop :=
  ∀ (s : State) (x y : Option Reg) (n : Len),
    exec (.xchg ⟨x, y, .none, n⟩) s = .next { s with d := s.h, e := s.l, h := s.d, l := s.e } ∧
    exec (.xchg ⟨x, y, .none, n⟩) { s with d := s.h, e := s.l, h := s.d, l := s.e } = .next s

/-- `PUSH` (R147): for every pair, with `SP` modulo 2^16; a read-only stack address keeps its byte and `SP`
still moves; an unmapped one stops the machine. -/
def Obligations.PushStoresPair : Prop :=
  ∀ (s : State) (r : Reg) (v : Word) (n : Len), r.isStackOperand = true →
    rdRP (.push (some r) (.bare .none n)) r s = .ok v →
    (s.mem.wf = true → s.classAt (s.sp - 1) ≠ .unmapped → s.classAt (s.sp - 2) ≠ .unmapped →
      ∃ t, exec (.push (some r) (.bare .none n)) s = .next t ∧ t = { s with mem := t.mem, sp := s.sp - 2 } ∧
        StoredOnStack s v t) ∧
    (s.classAt (s.sp - 1) = .unmapped →
      exec (.push (some r) (.bare .none n)) s = .fault (.addressFault (s.sp - 1))) ∧
    (s.classAt (s.sp - 1) ≠ .unmapped → s.classAt (s.sp - 2) = .unmapped →
      exec (.push (some r) (.bare .none n)) s = .fault (.addressFault (s.sp - 2)))

/-- `POP` (R148): the low byte at `SP`, the high byte at `SP + 1`, both modulo 2^16; memory is not altered. -/
def Obligations.PopLoadsPair : Prop :=
  ∀ (s : State) (lo hi : Byte) (n : Len),
    (memRead s s.sp = .ok lo → memRead s (s.sp + 1) = .ok hi →
      exec (.pop (some .b) (.bare .none n)) s = .next { s with b := hi, c := lo, sp := s.sp + 2 } ∧
      exec (.pop (some .d) (.bare .none n)) s = .next { s with d := hi, e := lo, sp := s.sp + 2 } ∧
      exec (.pop (some .h) (.bare .none n)) s = .next { s with h := hi, l := lo, sp := s.sp + 2 }) ∧
    (∀ r ∈ [Reg.b, .d, .h],
      (s.classAt s.sp = .unmapped → exec (.pop (some r) (.bare .none n)) s = .fault (.addressFault s.sp)) ∧
      (s.classAt s.sp ≠ .unmapped → s.classAt (s.sp + 1) = .unmapped →
        exec (.pop (some r) (.bare .none n)) s = .fault (.addressFault (s.sp + 1))))

/-! ## Arithmetic -/

/-- `INX`, `DCX` (R170, R171): the pair or `SP` plus or minus 1 modulo 2^16, and no flag. -/
def Obligations.PairStepsByOne : Prop :=
  ∀ (s t : State) (r : Reg) (v : Word) (n : Len),
    (rdRP (.inx (some r) (.bare .none n)) r s = .ok v →
      wrRP (.inx (some r) (.bare .none n)) r (v + 1) s = .ok t →
      exec (.inx (some r) (.bare .none n)) s = .next t ∧ t.flags = s.flags) ∧
    (rdRP (.dcx (some r) (.bare .none n)) r s = .ok v →
      wrRP (.dcx (some r) (.bare .none n)) r (v - 1) s = .ok t →
      exec (.dcx (some r) (.bare .none n)) s = .next t ∧ t.flags = s.flags)

/-- `INR`, `DCR` (R172, R173) for the seven registers and `M`: `S`, `Z`, `P` from the new value and `CY` kept;
the flags are written also where `M` is read-only and the store is ignored. -/
def Obligations.ByteStepsByOne : Prop :=
  ∀ (s t : State) (r : Reg) (v : Byte) (n : Len),
    (rd8 (.inr (some r) (.bare .none n)) r s = .ok v → wr8 (.inr (some r) (.bare .none n)) r (v + 1) s = .ok t →
      exec (.inr (some r) (.bare .none n)) s = .next { t with flags := resultFlags (v + 1) s.flags.cy }) ∧
    (rd8 (.dcr (some r) (.bare .none n)) r s = .ok v → wr8 (.dcr (some r) (.bare .none n)) r (v - 1) s = .ok t →
      exec (.dcr (some r) (.bare .none n)) s = .next { t with flags := resultFlags (v - 1) s.flags.cy }) ∧
    (s.classAt s.hl = .unmapped →
      exec (.inr (some .m) (.bare .none n)) s = .fault (.addressFault s.hl) ∧
      exec (.dcr (some .m) (.bare .none n)) s = .fault (.addressFault s.hl))

/-- `ADD`, `ADI` (R174, R175): the old carry is not an input, and all four flags are written. -/
def Obligations.AdditionIntoAccumulator : Prop :=
  ∀ (s : State) (r : Reg) (v : Byte) (n : Len),
    (rd8 (.add (some r) (.bare .none n)) r s = .ok v →
      exec (.add (some r) (.bare .none n)) s =
        .next { s with a := s.a + v, flags := resultFlags (s.a + v) (decide (256 ≤ s.a.toNat + v.toNat)) }) ∧
    exec (.adi (.bare (.d8 v) n)) s =
      .next { s with a := s.a + v, flags := resultFlags (s.a + v) (decide (256 ≤ s.a.toNat + v.toNat)) } ∧
    (s.classAt s.hl = .unmapped → exec (.add (some .m) (.bare .none n)) s = .fault (.addressFault s.hl))

/-- `SUB`, `SUI` and `CPI` (R176, R177, R204; the borrow of subtracting zero is decision D8): `CY` is the
borrow, and `CPI` writes no register. -/
def Obligations.SubtractionFromAccumulator : Prop :=
  ∀ (s : State) (r : Reg) (v : Byte) (n : Len),
    (rd8 (.sub (some r) (.bare .none n)) r s = .ok v →
      exec (.sub (some r) (.bare .none n)) s =
        .next { s with a := s.a - v, flags := resultFlags (s.a - v) (decide (s.a.toNat < v.toNat)) }) ∧
    exec (.sui (.bare (.d8 v) n)) s =
      .next { s with a := s.a - v, flags := resultFlags (s.a - v) (decide (s.a.toNat < v.toNat)) } ∧
    exec (.cpi (.bare (.d8 v) n)) s =
      .next { s with flags := resultFlags (s.a - v) (decide (s.a.toNat < v.toNat)) } ∧
    (s.classAt s.hl = .unmapped → exec (.sub (some .m) (.bare .none n)) s = .fault (.addressFault s.hl))

/-- `DAD` (R178): the 16-bit sum into H:L, `CY` the carry out of bit 15, the other flags unchanged. -/
def Obligations.DadAddsPairs : Prop :=
  ∀ (s : State) (r : Reg) (v : Word) (n : Len), rdRP (.dad (some r) (.bare .none n)) r s = .ok v →
    exec (.dad (some r) (.bare .none n)) s =
      .next { s with
        h := BitVec.ofNat 8 ((s.h.toNat * 256 + s.l.toNat + v.toNat) / 256)
        l := BitVec.ofNat 8 (s.h.toNat * 256 + s.l.toNat + v.toNat)
        flags := { s.flags with cy := decide (65536 ≤ s.h.toNat * 256 + s.l.toNat + v.toNat) } }

/-! ## Rotate and logic -/

/-- `RRC` (R200): `A` rotated right by one, `CY` the bit rotated out, the other flags unchanged. Designators
in the record are ignored (R80). -/
def Obligations.RrcRotatesAccumulator : Prop :=
  ∀ (s : State) (x y : Option Reg) (n : Len),
    exec (.rrc ⟨x, y, .none, n⟩) s =
      .next { s with a := s.a.rotateRight 1, flags := { s.flags with cy := s.a.getLsbD 0 } }

/-- `ANA`, `XRA`, `ANI` (R201, R202, R203): the result in `A` (decision D7), `S`, `Z`, `P` from it and `CY`
cleared (decision D6). -/
def Obligations.LogicIntoAccumulator : Prop :=
  ∀ (s : State) (r : Reg) (v : Byte) (n : Len),
    (rd8 (.ana (some r) (.bare .none n)) r s = .ok v →
      exec (.ana (some r) (.bare .none n)) s =
        .next { s with a := s.a &&& v, flags := resultFlags (s.a &&& v) false }) ∧
    (rd8 (.xra (some r) (.bare .none n)) r s = .ok v →
      exec (.xra (some r) (.bare .none n)) s =
        .next { s with a := s.a ^^^ v, flags := resultFlags (s.a ^^^ v) false }) ∧
    exec (.ani (.bare (.d8 v) n)) s = .next { s with a := s.a &&& v, flags := resultFlags (s.a &&& v) false } ∧
    (s.classAt s.hl = .unmapped →
      exec (.ana (some .m) (.bare .none n)) s = .fault (.addressFault s.hl) ∧
      exec (.xra (some .m) (.bare .none n)) s = .fault (.addressFault s.hl))

/-! ## Branches -/

/-- `JMP`, `JZ`, `JNZ` (R220, R221, R222), and `JNC`, which on this hardware jumps when carry is SET (R223). A
branch not taken changes nothing. -/
def Obligations.JumpsAndTheirConditions : Prop :=
  ∀ (s : State) (target : Word) (n : Len),
    exec (.jmp (.bare (.d16 target) n)) s = .next { s with pc := target } ∧
    (s.flags.z = true → exec (.jz (.bare (.d16 target) n)) s = .next { s with pc := target } ∧
      exec (.jnz (.bare (.d16 target) n)) s = .next s) ∧
    (s.flags.z = false → exec (.jz (.bare (.d16 target) n)) s = .next s ∧
      exec (.jnz (.bare (.d16 target) n)) s = .next { s with pc := target }) ∧
    (s.flags.cy = true → exec (.jnc (.bare (.d16 target) n)) s = .next { s with pc := target }) ∧
    (s.flags.cy = false → exec (.jnc (.bare (.d16 target) n)) s = .next s)

/-- `CALL` (R224, decision D23): pushes `PC` as it stands when step 4 runs, and jumps. -/
def Obligations.CallPushesAndJumps : Prop :=
  ∀ (s : State) (target : Word) (n : Len),
    (s.mem.wf = true → s.classAt (s.sp - 1) ≠ .unmapped → s.classAt (s.sp - 2) ≠ .unmapped →
      ∃ t, exec (.call (.bare (.d16 target) n)) s = .next t ∧
        t = { s with mem := t.mem, sp := s.sp - 2, pc := target } ∧ StoredOnStack s s.pc t) ∧
    (s.classAt (s.sp - 1) = .unmapped →
      exec (.call (.bare (.d16 target) n)) s = .fault (.addressFault (s.sp - 1))) ∧
    (s.classAt (s.sp - 1) ≠ .unmapped → s.classAt (s.sp - 2) = .unmapped →
      exec (.call (.bare (.d16 target) n)) s = .fault (.addressFault (s.sp - 2)))

/-- `RET` (R225, decision D23): pops `PC`; `INTE` is not touched. Designators in the record are ignored
(R80). -/
def Obligations.RetPopsPc : Prop :=
  ∀ (s : State) (lo hi : Byte) (x y : Option Reg) (n : Len),
    (memRead s s.sp = .ok lo → memRead s (s.sp + 1) = .ok hi →
      exec (.ret ⟨x, y, .none, n⟩) s =
        .next { s with pc := BitVec.ofNat 16 (hi.toNat * 256 + lo.toNat), sp := s.sp + 2 }) ∧
    (s.classAt s.sp = .unmapped → exec (.ret ⟨x, y, .none, n⟩) s = .fault (.addressFault s.sp)) ∧
    (s.classAt s.sp ≠ .unmapped → s.classAt (s.sp + 1) = .unmapped →
      exec (.ret ⟨x, y, .none, n⟩) s = .fault (.addressFault (s.sp + 1)))

/-! ## I/O, interrupt control, no operation, unimplemented -/

/-- `OUT`, `IN` (R240, R241, R51): one access of the named port, `A` written or loaded with whatever the device
answers; on a port the platform does not implement, `UnsupportedPort` and nothing written (decision D19). The
answer is arbitrary: the head of the state's own queue (log entry 4) where it has one, else a free value. -/
def Obligations.PortAccesses : Prop :=
  ∀ (s : State) (p : Byte) (n : Len),
    (p ∉ s.params.io.absentWrites →
      exec (.out (.bare (.d8 p) n)) s = .next { s with ioTrace := s.ioTrace ++ [.write p s.a] }) ∧
    (p ∈ s.params.io.absentWrites →
      exec (.out (.bare (.d8 p) n)) s = raiseError (.unsupportedPort p .write) s) ∧
    (p ∉ s.params.io.absentReads → ∃ v,
      exec (.inp (.bare (.d8 p) n)) s =
        .next { s with a := v, inputs := s.inputs.tail, ioTrace := s.ioTrace ++ [.read p v] } ∧
      ∀ w rest, s.inputs = w :: rest → v = w) ∧
    (p ∈ s.params.io.absentReads →
      exec (.inp (.bare (.d8 p) n)) s = raiseError (.unsupportedPort p .read) s)

/-- `EI` sets the latch at once, `NOP` does nothing (R242, R243). Designators in the record are ignored
(R80). -/
def Obligations.EnableInterruptsAndNop : Prop :=
  ∀ (s : State) (x y : Option Reg) (n : Len),
    exec (.ei ⟨x, y, .none, n⟩) s = .next { s with inte := true } ∧
    exec (.nop ⟨x, y, .none, n⟩) s = .next s

/-- `UNIMPL(b)` raises, whatever else its record holds (R261, R80), and what raising an error does (R267, R102,
R265): a recoverable kind stops the machine under `halt`, and under `continue` is reported with nothing else
changed; `AddressFault` stops the machine under both. -/
def Obligations.UnimplementedInstructionAndErrorPolicy : Prop :=
  ∀ (s : State) (u : UnimplRest) (e : Fault),
    (s.params.errorPolicy = .halt → exec (.unimpl u) s = .fault (.unimplementedInstruction u.byte)) ∧
    (s.params.errorPolicy = .proceed →
      exec (.unimpl u) s = .next { s with answer := some (.error (.unimplementedInstruction u.byte)) }) ∧
    ((∃ a, e = .addressFault a) → raiseError e s = .fault e) ∧
    (s.params.errorPolicy = .halt → raiseError e s = .fault e) ∧
    (s.params.errorPolicy = .proceed → (∀ a, e ≠ .addressFault a) →
      raiseError e s = .next { s with answer := some (.error e) })

/-! ## Frames: what an instruction leaves unchanged -/

/-- Each of the seven registers changes only by an instruction that R31's table lists as writing it. -/
def Obligations.OnlyListedInstructionsWriteRegisters : Prop :=
  ∀ (i : Instr) (s t : State), exec i s = .next t →
    (writesReg i .a = false → t.a = s.a) ∧ (writesReg i .b = false → t.b = s.b) ∧
    (writesReg i .c = false → t.c = s.c) ∧ (writesReg i .d = false → t.d = s.d) ∧
    (writesReg i .e = false → t.e = s.e) ∧ (writesReg i .h = false → t.h = s.h) ∧
    (writesReg i .l = false → t.l = s.l)

/-- Each flag changes only by an instruction that R113's table lists as writing it. -/
def Obligations.OnlyListedInstructionsWriteFlags : Prop :=
  ∀ (i : Instr) (s t : State), exec i s = .next t →
    (writesSZP i = false → t.flags.s = s.flags.s ∧ t.flags.z = s.flags.z ∧ t.flags.p = s.flags.p) ∧
    (writesCY i = false → t.flags.cy = s.flags.cy)

/-- Every byte outside the addresses an instruction stores to (R49) reads as before, and no byte outside a
read/write region ever changes. -/
def Obligations.OnlyStoredBytesChange : Prop :=
  ∀ (i : Instr) (s t : State), exec i s = .next t →
    ∀ a : Word, a ∉ storeAddrs i s ∨ s.classAt a ≠ .rw → memRead t a = memRead s a

/-- In step 4 only the instructions of R13 write `SP` and only those of R14 write `PC`. -/
def Obligations.OnlyListedInstructionsWriteSpAndPc : Prop :=
  ∀ (i : Instr) (s t : State), exec i s = .next t →
    (writesSp i = false → t.sp = s.sp) ∧ (writesPc i = false → t.pc = s.pc)

/-- Only `EI` writes `INTE` in step 4, and it writes `true` (R18); no instruction touches the interrupt
controller's slot (R19), the platform's parameters (R41) or the platform's coming moves; only `IN` and `OUT`
reach the I/O interface (R21). -/
def Obligations.OnlyEiAndIoTouchControlState : Prop :=
  ∀ (i : Instr) (s t : State), exec i s = .next t →
    t.pending = s.pending ∧ t.params = s.params ∧ t.moves = s.moves ∧
    ((∀ f, i ≠ .ei f) → t.inte = s.inte) ∧ (t.inte = s.inte ∨ t.inte = true) ∧
    ((∀ f, i ≠ .inp f) → t.inputs = s.inputs) ∧
    ((∀ f, i ≠ .inp f ∧ i ≠ .out f) → t.ioTrace = s.ioTrace)

/-! ## The control unit -/

/-- When the bytes at `PC` are those of a record the decoder can return, `PC` is in the program region and no
interrupt is accepted, a cycle is that record's meaning with `PC` advanced by its length first (R100, R103); and
so is a step whose move is a cycle. The model's choices in it: addresses past the top of memory wrap (decision
D21, log entry 15); and an unimplemented byte is executed whatever stands after it, no operand byte being read
(R79 leaves that open: log entry 10), with the open `UNIMPL_LEN` as its length (log entry 3). -/
def Obligations.StepRunsDecodedInstruction : Prop :=
  ∀ (s : State) (i : Instr) (bs : List Byte), i.fetchable = true → encode i = some bs →
    BytesAt s s.pc bs → s.pc.toNat < s.params.progLen → s.inte = false ∨ s.pending = none →
    ((∀ u, i ≠ .unimpl u) → i.fields.len.toWord = BitVec.ofNat 16 bs.length) ∧
    cycle s = exec i { s with answer := some .ok, pc := s.pc + i.fields.len.toWord } ∧
    (s.CycleNext → step s = exec i { s with
      moves := s.moves.tail, answer := some .ok, pc := s.pc + i.fields.len.toWord })

/-- An accepted interrupt (R100, R272, R273): the record is consumed, `INTE` cleared, `PC` not advanced and
`len` not used; if it succeeds the same cycle runs one ordinary instruction at the new `PC`, or nothing past the
program's end; if it reports an error or stops, the cycle ends there. A step whose move is a cycle is that
cycle. The model's choices in it: where the ordinary instruction is an unimplemented byte, no operand byte is
read (R76 says so, R79 leaves it open: log entry 10), and its length is open (log entry 3); and its bytes wrap past the top of
memory (decision D21, log entry 15). -/
def Obligations.CycleServesPendingInterruptFirst : Prop :=
  ∀ (s : State) (rec : Record), s.inte = true → s.pending = some rec →
    (s.CycleNext → step s = cycle { s with moves := s.moves.tail }) ∧
    (∀ t, exec rec { s with answer := some .ok, pending := none, inte := false } = .next t →
      (∀ e, t.answer = some (.error e) → cycle s = .next t) ∧
      (t.answer = some .ok → t.params.progLen ≤ t.pc.toNat → cycle s = .next t) ∧
      (t.answer = some .ok → t.pc.toNat < t.params.progLen →
        ∀ i bs, i.fetchable = true → encode i = some bs → BytesAt t t.pc bs →
          cycle s = exec i { t with pc := t.pc + i.fields.len.toWord })) ∧
    (∀ e, exec rec { s with answer := some .ok, pending := none, inte := false } = .fault e →
      cycle s = .fault e)

/-- While `INTE` is false a pending record stays pending through any cycle (R272, decision D15), and a cycle can
end with `INTE` false only where it began so or an interrupt was pending (R18): no instruction disables
interrupts. -/
def Obligations.InterruptsWaitAndAreNeverDisabledByPrograms : Prop :=
  ∀ s t : State, s.CycleNext → step s = .next t →
    (s.inte = false → t.pending = s.pending) ∧
    (s.inte = true → s.pending = none → t.inte = true ∧ t.pending = none) ∧
    (∀ rec, s.inte = true → s.pending = some rec → t.pending = none)

/-- The platform's moves between cycles: `generate` overwrites the slot without looking at it or at `INTE`
(R270); a write of the platform's own memory (R59); a later reset (R300). How the moves are scheduled is the
model's choice (log entry 5). -/
def Obligations.PlatformMovesBetweenCycles : Prop :=
  ∀ (s : State) (rest : List PlatformMove) (rec : Record) (a : Word) (v : Byte),
    (s.moves = .generate rec :: rest →
      step s = .next { s with moves := rest, pending := some rec }) ∧
    (s.moves = .poke a v :: rest → s.mem.wf = true → ∃ t, step s = .next t ∧
      t = { s with moves := rest, mem := t.mem } ∧ t.mem.read a.toNat = v ∧
      ∀ b : Word, b ≠ a → t.mem.read b.toNat = s.mem.read b.toNat) ∧
    (s.moves = .reset :: rest → ∃ t, step s = .next t ∧
      t = { s with
        moves := rest, a := 0, b := 0, c := 0, d := 0, e := 0, h := 0, l := 0, sp := 0, pc := 0
        flags := { s := false, z := false, p := false, cy := false }, inte := true, pending := none })

/-- `RUN()` (R101): it ends, with nothing executed and a pending interrupt not served, at the first moment that
`PC >= PROG_LEN`; before that it is one cycle after another, and an error ends it. -/
def Obligations.RunEndsAtProgramEnd : Prop :=
  ∀ (s : State) (rest : List PlatformMove), s.moves = .run :: rest →
    (s.params.progLen ≤ s.pc.toNat →
      step s = .next { s with moves := rest, answer := some .ended }) ∧
    (s.pc.toNat < s.params.progLen →
      (∀ t, cycle s = .next t →
        (∀ e, t.answer = some (.error e) → step s = .next { t with moves := rest }) ∧
        ((∀ e, t.answer ≠ some (.error e)) → step s = .next t ∧ t.moves = .run :: rest)) ∧
      (∀ e, cycle s = .fault e → step s = .fault e))

/-- A cycle with `PC` past the program's end and no accepted interrupt changes nothing and answers `ok` (R100
(e)). A fetch that meets an unmapped address, the opcode byte first and then the operand bytes its format has in
ascending order, stops the machine with `AddressFault` of that address under either policy (R42, R76, R265,
R268). The operand addresses are modulo 2^16 (decision D21, log entry 15). -/
def Obligations.CycleOutsideProgramOrMemory : Prop :=
  ∀ s : State, s.CycleNext → s.inte = false ∨ s.pending = none →
    (s.params.progLen ≤ s.pc.toNat →
      step s = .next { s with moves := s.moves.tail, answer := some .ok }) ∧
    (s.pc.toNat < s.params.progLen → s.classAt s.pc = .unmapped →
      step s = .fault (.addressFault s.pc)) ∧
    ∀ b0 : Byte, s.pc.toNat < s.params.progLen → memRead s s.pc = .ok b0 →
      ((opcode b0).1 = .f2 → s.classAt (s.pc + 1) = .unmapped →
        step s = .fault (.addressFault (s.pc + 1))) ∧
      ((opcode b0).1 = .f3 → s.classAt (s.pc + 1) = .unmapped →
        step s = .fault (.addressFault (s.pc + 1))) ∧
      ((opcode b0).1 = .f3 → s.classAt (s.pc + 1) ≠ .unmapped → s.classAt (s.pc + 2) = .unmapped →
        step s = .fault (.addressFault (s.pc + 2)))

/-- After a recoverable error (R104, R267, decision D10), for the unimplemented byte: an ordinary instruction is
skipped, its `PC` advance (the open `UNIMPL_LEN`, log entry 3) standing; an interrupt is lost, consumed with
`INTE` cleared, and the cycle's ordinary instruction is not executed. Under `halt` the machine stops in both
cases. The model's choice in it: only the byte itself must be readable, since no operand byte of it is read (R76
says so, R79 leaves it open: log entry 10). -/
def Obligations.FailedInstructionIsSkippedOrLost : Prop :=
  ∀ (s : State) (b : Byte) (u : UnimplRest), s.CycleNext →
    (b ∈ unimplementedBytes → s.inte = false ∨ s.pending = none → s.pc.toNat < s.params.progLen →
      memRead s s.pc = .ok b →
      (s.params.errorPolicy = .proceed → step s = .next { s with
        moves := s.moves.tail
        pc := s.pc + (Config.unimplLen b).toWord
        answer := some (.error (.unimplementedInstruction b)) }) ∧
      (s.params.errorPolicy = .halt → step s = .fault (.unimplementedInstruction b))) ∧
    (s.inte = true → s.pending = some (.unimpl u) →
      (s.params.errorPolicy = .proceed → step s = .next { s with
        moves := s.moves.tail, inte := false, pending := none
        answer := some (.error (.unimplementedInstruction u.byte)) }) ∧
      (s.params.errorPolicy = .halt → step s = .fault (.unimplementedInstruction u.byte)))

/-! ## Reset and loading -/

/-- Reset (R25): every register, `SP` and `PC` zero, the flags false, interrupts enabled, nothing pending (the
last is decision D16, the zeros of `SP` and `PC` D25). -/
def Obligations.ResetState : Prop :=
  State.reset.a = 0 ∧ State.reset.b = 0 ∧ State.reset.c = 0 ∧ State.reset.d = 0 ∧
  State.reset.e = 0 ∧ State.reset.h = 0 ∧ State.reset.l = 0 ∧ State.reset.sp = 0 ∧
  State.reset.pc = 0 ∧ State.reset.flags = { s := false, z := false, p := false, cy := false } ∧
  State.reset.inte = true ∧ State.reset.pending = none

/-- Memory at reset is in its canonical form (a property of the model's own memory, log entry 1). -/
def Obligations.ResetMemoryIsCanonical : Prop := State.reset.Inv

/-- A loaded program's byte `i` is at address `i`, the bytes above it are as before, and `PROG_LEN` is its
length (R303, decision D20); the memory stays canonical. -/
def Obligations.LoadedProgramIsReadable : Prop :=
  ∀ (s : State) (image : List Byte), s.Inv →
    (s.loadProgram image).Inv ∧ (s.loadProgram image).params.progLen = image.length ∧
    (∀ i (hi : i < image.length), i < 65536 → (s.loadProgram image).mem.read i = image[i]) ∧
    ∀ k, image.length ≤ k → (s.loadProgram image).mem.read k = s.mem.read k

/-! ## Invariants and whole-machine rules -/

/-- Every step, from any state, keeps memory in its canonical form. -/
def Obligations.StepKeepsMemoryCanonical : Prop :=
  ∀ s t : State, s.Inv → step s = .next t → t.Inv

/-- No step changes the platform's parameters, the memory map among them (R41), and no step but the platform's
own write changes a byte outside the read/write regions (R43). -/
def Obligations.StepKeepsParametersAndUnwritableMemory : Prop :=
  ∀ s t : State, step s = .next t →
    t.params = s.params ∧
    ((∀ a v rest, s.moves ≠ .poke a v :: rest) →
      ∀ a : Word, s.classAt a ≠ .rw → t.mem.read a.toNat = s.mem.read a.toNat)

/-- No step refuses. With the whole address space mapped no step, from any state, ends in `AddressFault`, and
every next state is fully mapped again, under the same policy (R41, R42, R43, R260). So under the `continue`
policy (R102) such a machine never stops: from every state it can reach, the next step answers a next state.
(Under `halt` any recoverable error stops it.) -/
def Obligations.FullyMappedMachineNeverStopsUnderContinue : Prop :=
  (∀ (s : State) (r : Refusal), step s ≠ .refused r) ∧
  (∀ s : State, s.FullyMapped →
    (∀ a : Word, step s ≠ .fault (.addressFault a)) ∧
    ∀ t, step s = .next t → t.FullyMapped ∧ t.params.errorPolicy = s.params.errorPolicy) ∧
  ∀ s t : State, s.FullyMapped → s.params.errorPolicy = .proceed → Reaches s t → Runs (step t)

/-- `S` and `P` are written and never read (R17): two states that differ only in them stop alike, or go on to
states that differ at most in them. -/
def Obligations.SignAndParityInfluenceNothing : Prop :=
  ∀ (s : State) (x y : Bool),
    (∀ t, step s = .next t → ∃ x' y',
      step { s with flags := { s.flags with s := x, p := y } } =
        .next { t with flags := { t.flags with s := x', p := y' } }) ∧
    (∀ e, step s = .fault e → step { s with flags := { s.flags with s := x, p := y } } = .fault e)
end

