-- ==== Sys2Proof/Laws/Alu.lean ====
section
/-! SUPPORT. The ALU functions as bit-vector arithmetic, and the flags model field by field. -/

namespace Sys2Proof.Machine

theorem add8_fst (a b : Byte) : (add8 a b).1 = a + b := by
  apply BitVec.eq_of_toNat_eq; simp [add8]

theorem sub8_fst (a b : Byte) : (sub8 a b).1 = a - b := by
  have := a.isLt; have := b.isLt
  apply BitVec.eq_of_toNat_eq
  simp only [sub8, BitVec.toNat_ofNat, BitVec.toNat_sub]
  congr 1; omega

theorem sub8_snd (a b : Byte) : (sub8 a b).2 = decide (a.toNat < b.toNat) := by
  have := a.isLt; have := b.isLt
  simp only [sub8, ← decide_not]
  exact decide_eq_decide.mpr (by omega)

theorem inc8_eq (a : Byte) : inc8 a = a + 1 := by
  apply BitVec.eq_of_toNat_eq; simp [inc8]

theorem dec8_eq (a : Byte) : dec8 a = a - 1 := by
  apply BitVec.eq_of_toNat_eq
  have := a.isLt
  simp only [dec8, BitVec.toNat_ofNat, BitVec.toNat_sub]
  congr 1; simp; omega

theorem inc16_eq (x : Word) : inc16 x = x + 1 := by
  apply BitVec.eq_of_toNat_eq; simp [inc16]

theorem dec16_eq (x : Word) : dec16 x = x - 1 := by
  apply BitVec.eq_of_toNat_eq
  have := x.isLt
  simp only [dec16, BitVec.toNat_ofNat, BitVec.toNat_sub]
  congr 1; simp; omega

theorem add16_fst (x y : Word) : (add16 x y).1 = x + y := by
  apply BitVec.eq_of_toNat_eq; simp [add16]

@[simp] theorem setSZP_cy (v : Byte) (f : Flags) : (setSZP v f).cy = f.cy := rfl
@[simp] theorem setCY_cy (cy : Bool) (f : Flags) : (setCY cy f).cy = cy := rfl
@[simp] theorem setCY_s (cy : Bool) (f : Flags) : (setCY cy f).s = f.s := rfl
@[simp] theorem setCY_z (cy : Bool) (f : Flags) : (setCY cy f).z = f.z := rfl
@[simp] theorem setCY_p (cy : Bool) (f : Flags) : (setCY cy f).p = f.p := rfl

/-- The flags model is stateless: the result's `S`, `Z`, `P` and the given carry, whatever they were (R112). -/
theorem setSZPC_eq (v : Byte) (cy : Bool) (f g : Flags) : setSZPC v cy f = setSZPC v cy g := rfl

end Sys2Proof.Machine
end

