-- ==== Sys2Proof/Laws/Memory.lean ====
section
/-! SUPPORT. The byte store: reading after writing, and the canonical form. -/

namespace Sys2Proof.Machine

@[simp] theorem Memory.read_nil (k : Nat) : Memory.read [] k = Memory.unlisted := rfl

theorem Memory.read_cell (x : Host.Cell) (m : Memory) (k : Nat) :
    Memory.read (x :: m) k = if x.1 = k then x.2 else Memory.read m k := rfl

/-- An address below every listed one reads as unlisted. -/
theorem Memory.read_of_lt {m : Memory} {k : Nat} (h : ∀ x ∈ m, k < x.1) :
    m.read k = Memory.unlisted := by
  induction m with
  | nil => rfl
  | cons x m ih =>
    have hx := h x (by simp)
    rw [Memory.read_cell, if_neg (by omega)]
    exact ih fun y hy => h y (by simp [hy])

/-- Prefixing a cell whose address is below all others sets that address alone. -/
theorem Memory.read_cons {m : Memory} {k : Nat} {v : Byte} (h : ∀ x ∈ m, k < x.1) (j : Nat) :
    (Memory.cons k v m).read j = if k = j then v else m.read j := by
  unfold Memory.cons
  split
  · split
    · subst_vars; exact Memory.read_of_lt h
    · rfl
  · rfl

/-! ## The canonical form -/

/-- The canonical form as a proposition. -/
theorem Memory.wf_iff (m : Memory) :
    m.wf = true ↔ m.Pairwise (fun x y => x.1 < y.1) ∧
      ∀ x ∈ m, x.1 < 65536 ∧ x.2 ≠ Memory.unlisted := by
  simp [Memory.wf]

theorem Memory.wf_nil : Memory.wf [] = true := rfl

theorem Memory.wf_tail {x : Host.Cell} {m : Memory} (h : Memory.wf (x :: m) = true) :
    m.wf = true := by
  rw [Memory.wf_iff] at *
  exact ⟨(List.pairwise_cons.mp h.1).2, fun y hy => h.2 y (by simp [hy])⟩

theorem Memory.wf_head_lt {x : Host.Cell} {m : Memory} (h : Memory.wf (x :: m) = true) :
    ∀ y ∈ m, x.1 < y.1 :=
  (List.pairwise_cons.mp ((Memory.wf_iff _).mp h).1).1

theorem Memory.wf_cons {m : Memory} {k : Nat} {v : Byte} (hm : m.wf = true) (hk : k < 65536)
    (h : ∀ x ∈ m, k < x.1) : (Memory.cons k v m).wf = true := by
  unfold Memory.cons
  split
  · exact hm
  · rename_i hv
    rw [Memory.wf_iff] at *
    refine ⟨List.pairwise_cons.mpr ⟨h, hm.1⟩, ?_⟩
    intro x hx
    rcases List.mem_cons.mp hx with rfl | hx
    · exact ⟨hk, hv⟩
    · exact hm.2 x hx

theorem Memory.mem_cons_sub {m : Memory} {k : Nat} {v : Byte} {x : Host.Cell}
    (h : x ∈ Memory.cons k v m) : x = (k, v) ∨ x ∈ m := by
  unfold Memory.cons at h
  split at h
  · exact .inr h
  · exact List.mem_cons.mp h

/-- A write lists no address but its own beside those already listed. -/
theorem Memory.mem_write {m : Memory} {k : Nat} {v : Byte} {x : Host.Cell}
    (h : x ∈ m.write k v) : x.1 = k ∨ x ∈ m := by
  induction m with
  | nil => rcases Memory.mem_cons_sub h with rfl | h <;> simp_all
  | cons y m ih =>
    unfold Memory.write at h
    split at h
    · rcases Memory.mem_cons_sub h with rfl | h
      · exact .inl rfl
      · exact .inr h
    · split at h
      · rcases Memory.mem_cons_sub h with rfl | h
        · exact .inl rfl
        · exact .inr (by simp [h])
      · rcases List.mem_cons.mp h with rfl | h
        · exact .inr (by simp)
        · rcases ih h with h | h
          · exact .inl h
          · exact .inr (by simp [h])

/-- A write keeps the canonical form. -/
theorem Memory.wf_write {m : Memory} {k : Nat} {v : Byte} (hm : m.wf = true) (hk : k < 65536) :
    (m.write k v).wf = true := by
  induction m with
  | nil => exact Memory.wf_cons Memory.wf_nil hk (by simp)
  | cons x m ih =>
    have ht := Memory.wf_tail hm
    have hlt := Memory.wf_head_lt hm
    unfold Memory.write
    split
    · rename_i h
      refine Memory.wf_cons hm hk fun y hy => ?_
      rcases List.mem_cons.mp hy with rfl | hy
      · exact h
      · exact Nat.lt_trans h (hlt y hy)
    · rename_i h
      split
      · rename_i he
        exact Memory.wf_cons ht hk fun y hy => he ▸ hlt y hy
      · rename_i hne
        have hw := (Memory.wf_iff _).mp (ih ht)
        have hx := ((Memory.wf_iff _).mp hm).2 x (by simp)
        rw [Memory.wf_iff]
        refine ⟨List.pairwise_cons.mpr ⟨fun y hy => ?_, hw.1⟩, ?_⟩
        · rcases Memory.mem_write hy with h' | h'
          · omega
          · exact hlt y h'
        · intro y hy
          rcases List.mem_cons.mp hy with rfl | hy
          · exact hx
          · exact hw.2 y hy

/-! ## Reading after writing -/

/-- A write leaves every other address alone, in any list. -/
theorem Memory.read_write_other (m : Memory) {k j : Nat} (v : Byte) (hj : k ≠ j) :
    (m.write k v).read j = m.read j := by
  have hcons : ∀ n : Memory, (Memory.cons k v n).read j = n.read j := by
    intro n
    unfold Memory.cons
    split
    · rfl
    · rw [Memory.read_cell, if_neg hj]
  induction m with
  | nil => exact hcons []
  | cons x m ih =>
    unfold Memory.write
    split
    · exact hcons _
    · split
      · rename_i he
        rw [hcons, Memory.read_cell, if_neg (he ▸ hj)]
      · rw [Memory.read_cell, Memory.read_cell, ih]

/-- A write to a canonical memory sets its own address and leaves every other alone. -/
theorem Memory.read_write {m : Memory} (hm : m.wf = true) (k : Nat) (v : Byte) (j : Nat) :
    (m.write k v).read j = if k = j then v else m.read j := by
  induction m with
  | nil => exact Memory.read_cons (by simp) j
  | cons x m ih =>
    have hlt := Memory.wf_head_lt hm
    unfold Memory.write
    split
    · rename_i h
      refine Memory.read_cons (fun y hy => ?_) j
      rcases List.mem_cons.mp hy with rfl | hy
      · exact h
      · exact Nat.lt_trans h (hlt y hy)
    · split
      · rename_i he
        subst he
        rw [Memory.read_cons hlt, Memory.read_cell]
        by_cases hj : x.1 = j <;> simp [hj]
      · rename_i hne
        rw [Memory.read_cell, Memory.read_cell, ih (Memory.wf_tail hm)]
        by_cases hj : x.1 = j
        · subst hj; simp [hne]
        · simp [hj]

/-- Two canonical memories that read alike everywhere are the same list. -/
theorem Memory.ext_of_wf {m n : Memory} (hm : m.wf = true) (hn : n.wf = true)
    (h : ∀ k, m.read k = n.read k) : m = n := by
  induction m generalizing n with
  | nil =>
    cases n with
    | nil => rfl
    | cons y n =>
      have hy := (((Memory.wf_iff _).mp hn).2 y (by simp)).2
      have := h y.1
      rw [Memory.read_cell, if_pos rfl] at this
      exact absurd this.symm hy
  | cons x m ih =>
    have hx := (((Memory.wf_iff _).mp hm).2 x (by simp)).2
    cases n with
    | nil =>
      have := h x.1
      rw [Memory.read_cell, if_pos rfl] at this
      exact absurd this hx
    | cons y n =>
      have hy := (((Memory.wf_iff _).mp hn).2 y (by simp)).2
      have hmx := Memory.wf_head_lt hm
      have hny := Memory.wf_head_lt hn
      have hkey : x.1 = y.1 := by
        rcases Nat.lt_trichotomy x.1 y.1 with hlt | heq | hgt
        · have h1 := h x.1
          rw [Memory.read_cell, if_pos rfl, Memory.read_cell, if_neg (by omega),
            Memory.read_of_lt fun z hz => Nat.lt_trans hlt (hny z hz)] at h1
          exact absurd h1 hx
        · exact heq
        · have h1 := h y.1
          rw [Memory.read_cell, if_neg (by omega), Memory.read_cell, if_pos rfl,
            Memory.read_of_lt fun z hz => Nat.lt_trans hgt (hmx z hz)] at h1
          exact absurd h1.symm hy
      have hval : x.2 = y.2 := by
        have h1 := h x.1
        rwa [Memory.read_cell, if_pos rfl, Memory.read_cell, if_pos hkey.symm] at h1
      have hxy : x = y := Prod.ext hkey hval
      subst hxy
      congr 1
      refine ih (Memory.wf_tail hm) (Memory.wf_tail hn) fun k => ?_
      by_cases hk : k ≤ x.1
      · rw [Memory.read_of_lt fun z hz => Nat.lt_of_le_of_lt hk (hmx z hz),
          Memory.read_of_lt fun z hz => Nat.lt_of_le_of_lt hk (hny z hz)]
      · have h1 := h k
        rwa [Memory.read_cell, Memory.read_cell, if_neg (by omega), if_neg (by omega)] at h1

/-- Loading an image keeps the canonical form. -/
theorem Memory.wf_load {m : Memory} (hm : m.wf = true) (k : Nat) (vs : List Byte) :
    (m.load k vs).wf = true := by
  induction vs generalizing m k with
  | nil => exact hm
  | cons v vs ih =>
    refine ih ?_ (k + 1)
    split
    · exact Memory.wf_write hm ‹_›
    · exact hm

end Sys2Proof.Machine
end

