-- ==== Sys2Proof/Laws/State.lean ====
section
/-! SUPPORT. One lemma per field per named update of State, so that no proof unfolds a record update. -/

namespace Sys2Proof.Machine

variable (s : State)

/-! ## setA -/

@[simp] theorem State.setA_a (v : Byte) : (s.setA v).a = v := rfl
@[simp] theorem State.setA_b (v : Byte) : (s.setA v).b = s.b := rfl
@[simp] theorem State.setA_c (v : Byte) : (s.setA v).c = s.c := rfl
@[simp] theorem State.setA_d (v : Byte) : (s.setA v).d = s.d := rfl
@[simp] theorem State.setA_e (v : Byte) : (s.setA v).e = s.e := rfl
@[simp] theorem State.setA_h (v : Byte) : (s.setA v).h = s.h := rfl
@[simp] theorem State.setA_l (v : Byte) : (s.setA v).l = s.l := rfl
@[simp] theorem State.setA_sp (v : Byte) : (s.setA v).sp = s.sp := rfl
@[simp] theorem State.setA_pc (v : Byte) : (s.setA v).pc = s.pc := rfl
@[simp] theorem State.setA_flags (v : Byte) : (s.setA v).flags = s.flags := rfl
@[simp] theorem State.setA_inte (v : Byte) : (s.setA v).inte = s.inte := rfl
@[simp] theorem State.setA_pending (v : Byte) : (s.setA v).pending = s.pending := rfl
@[simp] theorem State.setA_mem (v : Byte) : (s.setA v).mem = s.mem := rfl
@[simp] theorem State.setA_params (v : Byte) : (s.setA v).params = s.params := rfl
@[simp] theorem State.setA_moves (v : Byte) : (s.setA v).moves = s.moves := rfl
@[simp] theorem State.setA_inputs (v : Byte) : (s.setA v).inputs = s.inputs := rfl
@[simp] theorem State.setA_ioTrace (v : Byte) : (s.setA v).ioTrace = s.ioTrace := rfl
@[simp] theorem State.setA_answer (v : Byte) : (s.setA v).answer = s.answer := rfl

/-! ## setB -/

@[simp] theorem State.setB_a (v : Byte) : (s.setB v).a = s.a := rfl
@[simp] theorem State.setB_b (v : Byte) : (s.setB v).b = v := rfl
@[simp] theorem State.setB_c (v : Byte) : (s.setB v).c = s.c := rfl
@[simp] theorem State.setB_d (v : Byte) : (s.setB v).d = s.d := rfl
@[simp] theorem State.setB_e (v : Byte) : (s.setB v).e = s.e := rfl
@[simp] theorem State.setB_h (v : Byte) : (s.setB v).h = s.h := rfl
@[simp] theorem State.setB_l (v : Byte) : (s.setB v).l = s.l := rfl
@[simp] theorem State.setB_sp (v : Byte) : (s.setB v).sp = s.sp := rfl
@[simp] theorem State.setB_pc (v : Byte) : (s.setB v).pc = s.pc := rfl
@[simp] theorem State.setB_flags (v : Byte) : (s.setB v).flags = s.flags := rfl
@[simp] theorem State.setB_inte (v : Byte) : (s.setB v).inte = s.inte := rfl
@[simp] theorem State.setB_pending (v : Byte) : (s.setB v).pending = s.pending := rfl
@[simp] theorem State.setB_mem (v : Byte) : (s.setB v).mem = s.mem := rfl
@[simp] theorem State.setB_params (v : Byte) : (s.setB v).params = s.params := rfl
@[simp] theorem State.setB_moves (v : Byte) : (s.setB v).moves = s.moves := rfl
@[simp] theorem State.setB_inputs (v : Byte) : (s.setB v).inputs = s.inputs := rfl
@[simp] theorem State.setB_ioTrace (v : Byte) : (s.setB v).ioTrace = s.ioTrace := rfl
@[simp] theorem State.setB_answer (v : Byte) : (s.setB v).answer = s.answer := rfl

/-! ## setC -/

@[simp] theorem State.setC_a (v : Byte) : (s.setC v).a = s.a := rfl
@[simp] theorem State.setC_b (v : Byte) : (s.setC v).b = s.b := rfl
@[simp] theorem State.setC_c (v : Byte) : (s.setC v).c = v := rfl
@[simp] theorem State.setC_d (v : Byte) : (s.setC v).d = s.d := rfl
@[simp] theorem State.setC_e (v : Byte) : (s.setC v).e = s.e := rfl
@[simp] theorem State.setC_h (v : Byte) : (s.setC v).h = s.h := rfl
@[simp] theorem State.setC_l (v : Byte) : (s.setC v).l = s.l := rfl
@[simp] theorem State.setC_sp (v : Byte) : (s.setC v).sp = s.sp := rfl
@[simp] theorem State.setC_pc (v : Byte) : (s.setC v).pc = s.pc := rfl
@[simp] theorem State.setC_flags (v : Byte) : (s.setC v).flags = s.flags := rfl
@[simp] theorem State.setC_inte (v : Byte) : (s.setC v).inte = s.inte := rfl
@[simp] theorem State.setC_pending (v : Byte) : (s.setC v).pending = s.pending := rfl
@[simp] theorem State.setC_mem (v : Byte) : (s.setC v).mem = s.mem := rfl
@[simp] theorem State.setC_params (v : Byte) : (s.setC v).params = s.params := rfl
@[simp] theorem State.setC_moves (v : Byte) : (s.setC v).moves = s.moves := rfl
@[simp] theorem State.setC_inputs (v : Byte) : (s.setC v).inputs = s.inputs := rfl
@[simp] theorem State.setC_ioTrace (v : Byte) : (s.setC v).ioTrace = s.ioTrace := rfl
@[simp] theorem State.setC_answer (v : Byte) : (s.setC v).answer = s.answer := rfl

/-! ## setD -/

@[simp] theorem State.setD_a (v : Byte) : (s.setD v).a = s.a := rfl
@[simp] theorem State.setD_b (v : Byte) : (s.setD v).b = s.b := rfl
@[simp] theorem State.setD_c (v : Byte) : (s.setD v).c = s.c := rfl
@[simp] theorem State.setD_d (v : Byte) : (s.setD v).d = v := rfl
@[simp] theorem State.setD_e (v : Byte) : (s.setD v).e = s.e := rfl
@[simp] theorem State.setD_h (v : Byte) : (s.setD v).h = s.h := rfl
@[simp] theorem State.setD_l (v : Byte) : (s.setD v).l = s.l := rfl
@[simp] theorem State.setD_sp (v : Byte) : (s.setD v).sp = s.sp := rfl
@[simp] theorem State.setD_pc (v : Byte) : (s.setD v).pc = s.pc := rfl
@[simp] theorem State.setD_flags (v : Byte) : (s.setD v).flags = s.flags := rfl
@[simp] theorem State.setD_inte (v : Byte) : (s.setD v).inte = s.inte := rfl
@[simp] theorem State.setD_pending (v : Byte) : (s.setD v).pending = s.pending := rfl
@[simp] theorem State.setD_mem (v : Byte) : (s.setD v).mem = s.mem := rfl
@[simp] theorem State.setD_params (v : Byte) : (s.setD v).params = s.params := rfl
@[simp] theorem State.setD_moves (v : Byte) : (s.setD v).moves = s.moves := rfl
@[simp] theorem State.setD_inputs (v : Byte) : (s.setD v).inputs = s.inputs := rfl
@[simp] theorem State.setD_ioTrace (v : Byte) : (s.setD v).ioTrace = s.ioTrace := rfl
@[simp] theorem State.setD_answer (v : Byte) : (s.setD v).answer = s.answer := rfl

/-! ## setE -/

@[simp] theorem State.setE_a (v : Byte) : (s.setE v).a = s.a := rfl
@[simp] theorem State.setE_b (v : Byte) : (s.setE v).b = s.b := rfl
@[simp] theorem State.setE_c (v : Byte) : (s.setE v).c = s.c := rfl
@[simp] theorem State.setE_d (v : Byte) : (s.setE v).d = s.d := rfl
@[simp] theorem State.setE_e (v : Byte) : (s.setE v).e = v := rfl
@[simp] theorem State.setE_h (v : Byte) : (s.setE v).h = s.h := rfl
@[simp] theorem State.setE_l (v : Byte) : (s.setE v).l = s.l := rfl
@[simp] theorem State.setE_sp (v : Byte) : (s.setE v).sp = s.sp := rfl
@[simp] theorem State.setE_pc (v : Byte) : (s.setE v).pc = s.pc := rfl
@[simp] theorem State.setE_flags (v : Byte) : (s.setE v).flags = s.flags := rfl
@[simp] theorem State.setE_inte (v : Byte) : (s.setE v).inte = s.inte := rfl
@[simp] theorem State.setE_pending (v : Byte) : (s.setE v).pending = s.pending := rfl
@[simp] theorem State.setE_mem (v : Byte) : (s.setE v).mem = s.mem := rfl
@[simp] theorem State.setE_params (v : Byte) : (s.setE v).params = s.params := rfl
@[simp] theorem State.setE_moves (v : Byte) : (s.setE v).moves = s.moves := rfl
@[simp] theorem State.setE_inputs (v : Byte) : (s.setE v).inputs = s.inputs := rfl
@[simp] theorem State.setE_ioTrace (v : Byte) : (s.setE v).ioTrace = s.ioTrace := rfl
@[simp] theorem State.setE_answer (v : Byte) : (s.setE v).answer = s.answer := rfl

/-! ## setH -/

@[simp] theorem State.setH_a (v : Byte) : (s.setH v).a = s.a := rfl
@[simp] theorem State.setH_b (v : Byte) : (s.setH v).b = s.b := rfl
@[simp] theorem State.setH_c (v : Byte) : (s.setH v).c = s.c := rfl
@[simp] theorem State.setH_d (v : Byte) : (s.setH v).d = s.d := rfl
@[simp] theorem State.setH_e (v : Byte) : (s.setH v).e = s.e := rfl
@[simp] theorem State.setH_h (v : Byte) : (s.setH v).h = v := rfl
@[simp] theorem State.setH_l (v : Byte) : (s.setH v).l = s.l := rfl
@[simp] theorem State.setH_sp (v : Byte) : (s.setH v).sp = s.sp := rfl
@[simp] theorem State.setH_pc (v : Byte) : (s.setH v).pc = s.pc := rfl
@[simp] theorem State.setH_flags (v : Byte) : (s.setH v).flags = s.flags := rfl
@[simp] theorem State.setH_inte (v : Byte) : (s.setH v).inte = s.inte := rfl
@[simp] theorem State.setH_pending (v : Byte) : (s.setH v).pending = s.pending := rfl
@[simp] theorem State.setH_mem (v : Byte) : (s.setH v).mem = s.mem := rfl
@[simp] theorem State.setH_params (v : Byte) : (s.setH v).params = s.params := rfl
@[simp] theorem State.setH_moves (v : Byte) : (s.setH v).moves = s.moves := rfl
@[simp] theorem State.setH_inputs (v : Byte) : (s.setH v).inputs = s.inputs := rfl
@[simp] theorem State.setH_ioTrace (v : Byte) : (s.setH v).ioTrace = s.ioTrace := rfl
@[simp] theorem State.setH_answer (v : Byte) : (s.setH v).answer = s.answer := rfl

/-! ## setL -/

@[simp] theorem State.setL_a (v : Byte) : (s.setL v).a = s.a := rfl
@[simp] theorem State.setL_b (v : Byte) : (s.setL v).b = s.b := rfl
@[simp] theorem State.setL_c (v : Byte) : (s.setL v).c = s.c := rfl
@[simp] theorem State.setL_d (v : Byte) : (s.setL v).d = s.d := rfl
@[simp] theorem State.setL_e (v : Byte) : (s.setL v).e = s.e := rfl
@[simp] theorem State.setL_h (v : Byte) : (s.setL v).h = s.h := rfl
@[simp] theorem State.setL_l (v : Byte) : (s.setL v).l = v := rfl
@[simp] theorem State.setL_sp (v : Byte) : (s.setL v).sp = s.sp := rfl
@[simp] theorem State.setL_pc (v : Byte) : (s.setL v).pc = s.pc := rfl
@[simp] theorem State.setL_flags (v : Byte) : (s.setL v).flags = s.flags := rfl
@[simp] theorem State.setL_inte (v : Byte) : (s.setL v).inte = s.inte := rfl
@[simp] theorem State.setL_pending (v : Byte) : (s.setL v).pending = s.pending := rfl
@[simp] theorem State.setL_mem (v : Byte) : (s.setL v).mem = s.mem := rfl
@[simp] theorem State.setL_params (v : Byte) : (s.setL v).params = s.params := rfl
@[simp] theorem State.setL_moves (v : Byte) : (s.setL v).moves = s.moves := rfl
@[simp] theorem State.setL_inputs (v : Byte) : (s.setL v).inputs = s.inputs := rfl
@[simp] theorem State.setL_ioTrace (v : Byte) : (s.setL v).ioTrace = s.ioTrace := rfl
@[simp] theorem State.setL_answer (v : Byte) : (s.setL v).answer = s.answer := rfl

/-! ## setSp -/

@[simp] theorem State.setSp_a (v : Word) : (s.setSp v).a = s.a := rfl
@[simp] theorem State.setSp_b (v : Word) : (s.setSp v).b = s.b := rfl
@[simp] theorem State.setSp_c (v : Word) : (s.setSp v).c = s.c := rfl
@[simp] theorem State.setSp_d (v : Word) : (s.setSp v).d = s.d := rfl
@[simp] theorem State.setSp_e (v : Word) : (s.setSp v).e = s.e := rfl
@[simp] theorem State.setSp_h (v : Word) : (s.setSp v).h = s.h := rfl
@[simp] theorem State.setSp_l (v : Word) : (s.setSp v).l = s.l := rfl
@[simp] theorem State.setSp_sp (v : Word) : (s.setSp v).sp = v := rfl
@[simp] theorem State.setSp_pc (v : Word) : (s.setSp v).pc = s.pc := rfl
@[simp] theorem State.setSp_flags (v : Word) : (s.setSp v).flags = s.flags := rfl
@[simp] theorem State.setSp_inte (v : Word) : (s.setSp v).inte = s.inte := rfl
@[simp] theorem State.setSp_pending (v : Word) : (s.setSp v).pending = s.pending := rfl
@[simp] theorem State.setSp_mem (v : Word) : (s.setSp v).mem = s.mem := rfl
@[simp] theorem State.setSp_params (v : Word) : (s.setSp v).params = s.params := rfl
@[simp] theorem State.setSp_moves (v : Word) : (s.setSp v).moves = s.moves := rfl
@[simp] theorem State.setSp_inputs (v : Word) : (s.setSp v).inputs = s.inputs := rfl
@[simp] theorem State.setSp_ioTrace (v : Word) : (s.setSp v).ioTrace = s.ioTrace := rfl
@[simp] theorem State.setSp_answer (v : Word) : (s.setSp v).answer = s.answer := rfl

/-! ## setPc -/

@[simp] theorem State.setPc_a (v : Word) : (s.setPc v).a = s.a := rfl
@[simp] theorem State.setPc_b (v : Word) : (s.setPc v).b = s.b := rfl
@[simp] theorem State.setPc_c (v : Word) : (s.setPc v).c = s.c := rfl
@[simp] theorem State.setPc_d (v : Word) : (s.setPc v).d = s.d := rfl
@[simp] theorem State.setPc_e (v : Word) : (s.setPc v).e = s.e := rfl
@[simp] theorem State.setPc_h (v : Word) : (s.setPc v).h = s.h := rfl
@[simp] theorem State.setPc_l (v : Word) : (s.setPc v).l = s.l := rfl
@[simp] theorem State.setPc_sp (v : Word) : (s.setPc v).sp = s.sp := rfl
@[simp] theorem State.setPc_pc (v : Word) : (s.setPc v).pc = v := rfl
@[simp] theorem State.setPc_flags (v : Word) : (s.setPc v).flags = s.flags := rfl
@[simp] theorem State.setPc_inte (v : Word) : (s.setPc v).inte = s.inte := rfl
@[simp] theorem State.setPc_pending (v : Word) : (s.setPc v).pending = s.pending := rfl
@[simp] theorem State.setPc_mem (v : Word) : (s.setPc v).mem = s.mem := rfl
@[simp] theorem State.setPc_params (v : Word) : (s.setPc v).params = s.params := rfl
@[simp] theorem State.setPc_moves (v : Word) : (s.setPc v).moves = s.moves := rfl
@[simp] theorem State.setPc_inputs (v : Word) : (s.setPc v).inputs = s.inputs := rfl
@[simp] theorem State.setPc_ioTrace (v : Word) : (s.setPc v).ioTrace = s.ioTrace := rfl
@[simp] theorem State.setPc_answer (v : Word) : (s.setPc v).answer = s.answer := rfl

/-! ## setFlags -/

@[simp] theorem State.setFlags_a (v : Flags) : (s.setFlags v).a = s.a := rfl
@[simp] theorem State.setFlags_b (v : Flags) : (s.setFlags v).b = s.b := rfl
@[simp] theorem State.setFlags_c (v : Flags) : (s.setFlags v).c = s.c := rfl
@[simp] theorem State.setFlags_d (v : Flags) : (s.setFlags v).d = s.d := rfl
@[simp] theorem State.setFlags_e (v : Flags) : (s.setFlags v).e = s.e := rfl
@[simp] theorem State.setFlags_h (v : Flags) : (s.setFlags v).h = s.h := rfl
@[simp] theorem State.setFlags_l (v : Flags) : (s.setFlags v).l = s.l := rfl
@[simp] theorem State.setFlags_sp (v : Flags) : (s.setFlags v).sp = s.sp := rfl
@[simp] theorem State.setFlags_pc (v : Flags) : (s.setFlags v).pc = s.pc := rfl
@[simp] theorem State.setFlags_flags (v : Flags) : (s.setFlags v).flags = v := rfl
@[simp] theorem State.setFlags_inte (v : Flags) : (s.setFlags v).inte = s.inte := rfl
@[simp] theorem State.setFlags_pending (v : Flags) : (s.setFlags v).pending = s.pending := rfl
@[simp] theorem State.setFlags_mem (v : Flags) : (s.setFlags v).mem = s.mem := rfl
@[simp] theorem State.setFlags_params (v : Flags) : (s.setFlags v).params = s.params := rfl
@[simp] theorem State.setFlags_moves (v : Flags) : (s.setFlags v).moves = s.moves := rfl
@[simp] theorem State.setFlags_inputs (v : Flags) : (s.setFlags v).inputs = s.inputs := rfl
@[simp] theorem State.setFlags_ioTrace (v : Flags) : (s.setFlags v).ioTrace = s.ioTrace := rfl
@[simp] theorem State.setFlags_answer (v : Flags) : (s.setFlags v).answer = s.answer := rfl

/-! ## setInte -/

@[simp] theorem State.setInte_a (v : Bool) : (s.setInte v).a = s.a := rfl
@[simp] theorem State.setInte_b (v : Bool) : (s.setInte v).b = s.b := rfl
@[simp] theorem State.setInte_c (v : Bool) : (s.setInte v).c = s.c := rfl
@[simp] theorem State.setInte_d (v : Bool) : (s.setInte v).d = s.d := rfl
@[simp] theorem State.setInte_e (v : Bool) : (s.setInte v).e = s.e := rfl
@[simp] theorem State.setInte_h (v : Bool) : (s.setInte v).h = s.h := rfl
@[simp] theorem State.setInte_l (v : Bool) : (s.setInte v).l = s.l := rfl
@[simp] theorem State.setInte_sp (v : Bool) : (s.setInte v).sp = s.sp := rfl
@[simp] theorem State.setInte_pc (v : Bool) : (s.setInte v).pc = s.pc := rfl
@[simp] theorem State.setInte_flags (v : Bool) : (s.setInte v).flags = s.flags := rfl
@[simp] theorem State.setInte_inte (v : Bool) : (s.setInte v).inte = v := rfl
@[simp] theorem State.setInte_pending (v : Bool) : (s.setInte v).pending = s.pending := rfl
@[simp] theorem State.setInte_mem (v : Bool) : (s.setInte v).mem = s.mem := rfl
@[simp] theorem State.setInte_params (v : Bool) : (s.setInte v).params = s.params := rfl
@[simp] theorem State.setInte_moves (v : Bool) : (s.setInte v).moves = s.moves := rfl
@[simp] theorem State.setInte_inputs (v : Bool) : (s.setInte v).inputs = s.inputs := rfl
@[simp] theorem State.setInte_ioTrace (v : Bool) : (s.setInte v).ioTrace = s.ioTrace := rfl
@[simp] theorem State.setInte_answer (v : Bool) : (s.setInte v).answer = s.answer := rfl

/-! ## setPending -/

@[simp] theorem State.setPending_a (v : Option Record) : (s.setPending v).a = s.a := rfl
@[simp] theorem State.setPending_b (v : Option Record) : (s.setPending v).b = s.b := rfl
@[simp] theorem State.setPending_c (v : Option Record) : (s.setPending v).c = s.c := rfl
@[simp] theorem State.setPending_d (v : Option Record) : (s.setPending v).d = s.d := rfl
@[simp] theorem State.setPending_e (v : Option Record) : (s.setPending v).e = s.e := rfl
@[simp] theorem State.setPending_h (v : Option Record) : (s.setPending v).h = s.h := rfl
@[simp] theorem State.setPending_l (v : Option Record) : (s.setPending v).l = s.l := rfl
@[simp] theorem State.setPending_sp (v : Option Record) : (s.setPending v).sp = s.sp := rfl
@[simp] theorem State.setPending_pc (v : Option Record) : (s.setPending v).pc = s.pc := rfl
@[simp] theorem State.setPending_flags (v : Option Record) : (s.setPending v).flags = s.flags := rfl
@[simp] theorem State.setPending_inte (v : Option Record) : (s.setPending v).inte = s.inte := rfl
@[simp] theorem State.setPending_pending (v : Option Record) : (s.setPending v).pending = v := rfl
@[simp] theorem State.setPending_mem (v : Option Record) : (s.setPending v).mem = s.mem := rfl
@[simp] theorem State.setPending_params (v : Option Record) : (s.setPending v).params = s.params := rfl
@[simp] theorem State.setPending_moves (v : Option Record) : (s.setPending v).moves = s.moves := rfl
@[simp] theorem State.setPending_inputs (v : Option Record) : (s.setPending v).inputs = s.inputs := rfl
@[simp] theorem State.setPending_ioTrace (v : Option Record) : (s.setPending v).ioTrace = s.ioTrace := rfl
@[simp] theorem State.setPending_answer (v : Option Record) : (s.setPending v).answer = s.answer := rfl

/-! ## setMem -/

@[simp] theorem State.setMem_a (v : Memory) : (s.setMem v).a = s.a := rfl
@[simp] theorem State.setMem_b (v : Memory) : (s.setMem v).b = s.b := rfl
@[simp] theorem State.setMem_c (v : Memory) : (s.setMem v).c = s.c := rfl
@[simp] theorem State.setMem_d (v : Memory) : (s.setMem v).d = s.d := rfl
@[simp] theorem State.setMem_e (v : Memory) : (s.setMem v).e = s.e := rfl
@[simp] theorem State.setMem_h (v : Memory) : (s.setMem v).h = s.h := rfl
@[simp] theorem State.setMem_l (v : Memory) : (s.setMem v).l = s.l := rfl
@[simp] theorem State.setMem_sp (v : Memory) : (s.setMem v).sp = s.sp := rfl
@[simp] theorem State.setMem_pc (v : Memory) : (s.setMem v).pc = s.pc := rfl
@[simp] theorem State.setMem_flags (v : Memory) : (s.setMem v).flags = s.flags := rfl
@[simp] theorem State.setMem_inte (v : Memory) : (s.setMem v).inte = s.inte := rfl
@[simp] theorem State.setMem_pending (v : Memory) : (s.setMem v).pending = s.pending := rfl
@[simp] theorem State.setMem_mem (v : Memory) : (s.setMem v).mem = v := rfl
@[simp] theorem State.setMem_params (v : Memory) : (s.setMem v).params = s.params := rfl
@[simp] theorem State.setMem_moves (v : Memory) : (s.setMem v).moves = s.moves := rfl
@[simp] theorem State.setMem_inputs (v : Memory) : (s.setMem v).inputs = s.inputs := rfl
@[simp] theorem State.setMem_ioTrace (v : Memory) : (s.setMem v).ioTrace = s.ioTrace := rfl
@[simp] theorem State.setMem_answer (v : Memory) : (s.setMem v).answer = s.answer := rfl

/-! ## setMoves -/

@[simp] theorem State.setMoves_a (v : List PlatformMove) : (s.setMoves v).a = s.a := rfl
@[simp] theorem State.setMoves_b (v : List PlatformMove) : (s.setMoves v).b = s.b := rfl
@[simp] theorem State.setMoves_c (v : List PlatformMove) : (s.setMoves v).c = s.c := rfl
@[simp] theorem State.setMoves_d (v : List PlatformMove) : (s.setMoves v).d = s.d := rfl
@[simp] theorem State.setMoves_e (v : List PlatformMove) : (s.setMoves v).e = s.e := rfl
@[simp] theorem State.setMoves_h (v : List PlatformMove) : (s.setMoves v).h = s.h := rfl
@[simp] theorem State.setMoves_l (v : List PlatformMove) : (s.setMoves v).l = s.l := rfl
@[simp] theorem State.setMoves_sp (v : List PlatformMove) : (s.setMoves v).sp = s.sp := rfl
@[simp] theorem State.setMoves_pc (v : List PlatformMove) : (s.setMoves v).pc = s.pc := rfl
@[simp] theorem State.setMoves_flags (v : List PlatformMove) : (s.setMoves v).flags = s.flags := rfl
@[simp] theorem State.setMoves_inte (v : List PlatformMove) : (s.setMoves v).inte = s.inte := rfl
@[simp] theorem State.setMoves_pending (v : List PlatformMove) : (s.setMoves v).pending = s.pending := rfl
@[simp] theorem State.setMoves_mem (v : List PlatformMove) : (s.setMoves v).mem = s.mem := rfl
@[simp] theorem State.setMoves_params (v : List PlatformMove) : (s.setMoves v).params = s.params := rfl
@[simp] theorem State.setMoves_moves (v : List PlatformMove) : (s.setMoves v).moves = v := rfl
@[simp] theorem State.setMoves_inputs (v : List PlatformMove) : (s.setMoves v).inputs = s.inputs := rfl
@[simp] theorem State.setMoves_ioTrace (v : List PlatformMove) : (s.setMoves v).ioTrace = s.ioTrace := rfl
@[simp] theorem State.setMoves_answer (v : List PlatformMove) : (s.setMoves v).answer = s.answer := rfl

/-! ## setInputs -/

@[simp] theorem State.setInputs_a (v : List Byte) : (s.setInputs v).a = s.a := rfl
@[simp] theorem State.setInputs_b (v : List Byte) : (s.setInputs v).b = s.b := rfl
@[simp] theorem State.setInputs_c (v : List Byte) : (s.setInputs v).c = s.c := rfl
@[simp] theorem State.setInputs_d (v : List Byte) : (s.setInputs v).d = s.d := rfl
@[simp] theorem State.setInputs_e (v : List Byte) : (s.setInputs v).e = s.e := rfl
@[simp] theorem State.setInputs_h (v : List Byte) : (s.setInputs v).h = s.h := rfl
@[simp] theorem State.setInputs_l (v : List Byte) : (s.setInputs v).l = s.l := rfl
@[simp] theorem State.setInputs_sp (v : List Byte) : (s.setInputs v).sp = s.sp := rfl
@[simp] theorem State.setInputs_pc (v : List Byte) : (s.setInputs v).pc = s.pc := rfl
@[simp] theorem State.setInputs_flags (v : List Byte) : (s.setInputs v).flags = s.flags := rfl
@[simp] theorem State.setInputs_inte (v : List Byte) : (s.setInputs v).inte = s.inte := rfl
@[simp] theorem State.setInputs_pending (v : List Byte) : (s.setInputs v).pending = s.pending := rfl
@[simp] theorem State.setInputs_mem (v : List Byte) : (s.setInputs v).mem = s.mem := rfl
@[simp] theorem State.setInputs_params (v : List Byte) : (s.setInputs v).params = s.params := rfl
@[simp] theorem State.setInputs_moves (v : List Byte) : (s.setInputs v).moves = s.moves := rfl
@[simp] theorem State.setInputs_inputs (v : List Byte) : (s.setInputs v).inputs = v := rfl
@[simp] theorem State.setInputs_ioTrace (v : List Byte) : (s.setInputs v).ioTrace = s.ioTrace := rfl
@[simp] theorem State.setInputs_answer (v : List Byte) : (s.setInputs v).answer = s.answer := rfl

/-! ## setIoTrace -/

@[simp] theorem State.setIoTrace_a (v : List IoAccess) : (s.setIoTrace v).a = s.a := rfl
@[simp] theorem State.setIoTrace_b (v : List IoAccess) : (s.setIoTrace v).b = s.b := rfl
@[simp] theorem State.setIoTrace_c (v : List IoAccess) : (s.setIoTrace v).c = s.c := rfl
@[simp] theorem State.setIoTrace_d (v : List IoAccess) : (s.setIoTrace v).d = s.d := rfl
@[simp] theorem State.setIoTrace_e (v : List IoAccess) : (s.setIoTrace v).e = s.e := rfl
@[simp] theorem State.setIoTrace_h (v : List IoAccess) : (s.setIoTrace v).h = s.h := rfl
@[simp] theorem State.setIoTrace_l (v : List IoAccess) : (s.setIoTrace v).l = s.l := rfl
@[simp] theorem State.setIoTrace_sp (v : List IoAccess) : (s.setIoTrace v).sp = s.sp := rfl
@[simp] theorem State.setIoTrace_pc (v : List IoAccess) : (s.setIoTrace v).pc = s.pc := rfl
@[simp] theorem State.setIoTrace_flags (v : List IoAccess) : (s.setIoTrace v).flags = s.flags := rfl
@[simp] theorem State.setIoTrace_inte (v : List IoAccess) : (s.setIoTrace v).inte = s.inte := rfl
@[simp] theorem State.setIoTrace_pending (v : List IoAccess) : (s.setIoTrace v).pending = s.pending := rfl
@[simp] theorem State.setIoTrace_mem (v : List IoAccess) : (s.setIoTrace v).mem = s.mem := rfl
@[simp] theorem State.setIoTrace_params (v : List IoAccess) : (s.setIoTrace v).params = s.params := rfl
@[simp] theorem State.setIoTrace_moves (v : List IoAccess) : (s.setIoTrace v).moves = s.moves := rfl
@[simp] theorem State.setIoTrace_inputs (v : List IoAccess) : (s.setIoTrace v).inputs = s.inputs := rfl
@[simp] theorem State.setIoTrace_ioTrace (v : List IoAccess) : (s.setIoTrace v).ioTrace = v := rfl
@[simp] theorem State.setIoTrace_answer (v : List IoAccess) : (s.setIoTrace v).answer = s.answer := rfl

/-! ## setAnswer -/

@[simp] theorem State.setAnswer_a (v : Option Answer) : (s.setAnswer v).a = s.a := rfl
@[simp] theorem State.setAnswer_b (v : Option Answer) : (s.setAnswer v).b = s.b := rfl
@[simp] theorem State.setAnswer_c (v : Option Answer) : (s.setAnswer v).c = s.c := rfl
@[simp] theorem State.setAnswer_d (v : Option Answer) : (s.setAnswer v).d = s.d := rfl
@[simp] theorem State.setAnswer_e (v : Option Answer) : (s.setAnswer v).e = s.e := rfl
@[simp] theorem State.setAnswer_h (v : Option Answer) : (s.setAnswer v).h = s.h := rfl
@[simp] theorem State.setAnswer_l (v : Option Answer) : (s.setAnswer v).l = s.l := rfl
@[simp] theorem State.setAnswer_sp (v : Option Answer) : (s.setAnswer v).sp = s.sp := rfl
@[simp] theorem State.setAnswer_pc (v : Option Answer) : (s.setAnswer v).pc = s.pc := rfl
@[simp] theorem State.setAnswer_flags (v : Option Answer) : (s.setAnswer v).flags = s.flags := rfl
@[simp] theorem State.setAnswer_inte (v : Option Answer) : (s.setAnswer v).inte = s.inte := rfl
@[simp] theorem State.setAnswer_pending (v : Option Answer) : (s.setAnswer v).pending = s.pending := rfl
@[simp] theorem State.setAnswer_mem (v : Option Answer) : (s.setAnswer v).mem = s.mem := rfl
@[simp] theorem State.setAnswer_params (v : Option Answer) : (s.setAnswer v).params = s.params := rfl
@[simp] theorem State.setAnswer_moves (v : Option Answer) : (s.setAnswer v).moves = s.moves := rfl
@[simp] theorem State.setAnswer_inputs (v : Option Answer) : (s.setAnswer v).inputs = s.inputs := rfl
@[simp] theorem State.setAnswer_ioTrace (v : Option Answer) : (s.setAnswer v).ioTrace = s.ioTrace := rfl
@[simp] theorem State.setAnswer_answer (v : Option Answer) : (s.setAnswer v).answer = v := rfl

/-! ## Pairs and the memory map -/

@[simp] theorem State.setBc_a (v : Word) : (s.setBc v).a = s.a := rfl
@[simp] theorem State.setBc_b (v : Word) : (s.setBc v).b = hiByte v := rfl
@[simp] theorem State.setBc_c (v : Word) : (s.setBc v).c = loByte v := rfl
@[simp] theorem State.setBc_d (v : Word) : (s.setBc v).d = s.d := rfl
@[simp] theorem State.setBc_e (v : Word) : (s.setBc v).e = s.e := rfl
@[simp] theorem State.setBc_h (v : Word) : (s.setBc v).h = s.h := rfl
@[simp] theorem State.setBc_l (v : Word) : (s.setBc v).l = s.l := rfl
@[simp] theorem State.setBc_sp (v : Word) : (s.setBc v).sp = s.sp := rfl
@[simp] theorem State.setBc_pc (v : Word) : (s.setBc v).pc = s.pc := rfl
@[simp] theorem State.setBc_flags (v : Word) : (s.setBc v).flags = s.flags := rfl
@[simp] theorem State.setBc_inte (v : Word) : (s.setBc v).inte = s.inte := rfl
@[simp] theorem State.setBc_pending (v : Word) : (s.setBc v).pending = s.pending := rfl
@[simp] theorem State.setBc_mem (v : Word) : (s.setBc v).mem = s.mem := rfl
@[simp] theorem State.setBc_params (v : Word) : (s.setBc v).params = s.params := rfl
@[simp] theorem State.setBc_moves (v : Word) : (s.setBc v).moves = s.moves := rfl
@[simp] theorem State.setBc_inputs (v : Word) : (s.setBc v).inputs = s.inputs := rfl
@[simp] theorem State.setBc_ioTrace (v : Word) : (s.setBc v).ioTrace = s.ioTrace := rfl
@[simp] theorem State.setBc_answer (v : Word) : (s.setBc v).answer = s.answer := rfl

@[simp] theorem State.setDe_a (v : Word) : (s.setDe v).a = s.a := rfl
@[simp] theorem State.setDe_b (v : Word) : (s.setDe v).b = s.b := rfl
@[simp] theorem State.setDe_c (v : Word) : (s.setDe v).c = s.c := rfl
@[simp] theorem State.setDe_d (v : Word) : (s.setDe v).d = hiByte v := rfl
@[simp] theorem State.setDe_e (v : Word) : (s.setDe v).e = loByte v := rfl
@[simp] theorem State.setDe_h (v : Word) : (s.setDe v).h = s.h := rfl
@[simp] theorem State.setDe_l (v : Word) : (s.setDe v).l = s.l := rfl
@[simp] theorem State.setDe_sp (v : Word) : (s.setDe v).sp = s.sp := rfl
@[simp] theorem State.setDe_pc (v : Word) : (s.setDe v).pc = s.pc := rfl
@[simp] theorem State.setDe_flags (v : Word) : (s.setDe v).flags = s.flags := rfl
@[simp] theorem State.setDe_inte (v : Word) : (s.setDe v).inte = s.inte := rfl
@[simp] theorem State.setDe_pending (v : Word) : (s.setDe v).pending = s.pending := rfl
@[simp] theorem State.setDe_mem (v : Word) : (s.setDe v).mem = s.mem := rfl
@[simp] theorem State.setDe_params (v : Word) : (s.setDe v).params = s.params := rfl
@[simp] theorem State.setDe_moves (v : Word) : (s.setDe v).moves = s.moves := rfl
@[simp] theorem State.setDe_inputs (v : Word) : (s.setDe v).inputs = s.inputs := rfl
@[simp] theorem State.setDe_ioTrace (v : Word) : (s.setDe v).ioTrace = s.ioTrace := rfl
@[simp] theorem State.setDe_answer (v : Word) : (s.setDe v).answer = s.answer := rfl

@[simp] theorem State.setHl_a (v : Word) : (s.setHl v).a = s.a := rfl
@[simp] theorem State.setHl_b (v : Word) : (s.setHl v).b = s.b := rfl
@[simp] theorem State.setHl_c (v : Word) : (s.setHl v).c = s.c := rfl
@[simp] theorem State.setHl_d (v : Word) : (s.setHl v).d = s.d := rfl
@[simp] theorem State.setHl_e (v : Word) : (s.setHl v).e = s.e := rfl
@[simp] theorem State.setHl_h (v : Word) : (s.setHl v).h = hiByte v := rfl
@[simp] theorem State.setHl_l (v : Word) : (s.setHl v).l = loByte v := rfl
@[simp] theorem State.setHl_sp (v : Word) : (s.setHl v).sp = s.sp := rfl
@[simp] theorem State.setHl_pc (v : Word) : (s.setHl v).pc = s.pc := rfl
@[simp] theorem State.setHl_flags (v : Word) : (s.setHl v).flags = s.flags := rfl
@[simp] theorem State.setHl_inte (v : Word) : (s.setHl v).inte = s.inte := rfl
@[simp] theorem State.setHl_pending (v : Word) : (s.setHl v).pending = s.pending := rfl
@[simp] theorem State.setHl_mem (v : Word) : (s.setHl v).mem = s.mem := rfl
@[simp] theorem State.setHl_params (v : Word) : (s.setHl v).params = s.params := rfl
@[simp] theorem State.setHl_moves (v : Word) : (s.setHl v).moves = s.moves := rfl
@[simp] theorem State.setHl_inputs (v : Word) : (s.setHl v).inputs = s.inputs := rfl
@[simp] theorem State.setHl_ioTrace (v : Word) : (s.setHl v).ioTrace = s.ioTrace := rfl
@[simp] theorem State.setHl_answer (v : Word) : (s.setHl v).answer = s.answer := rfl

end Sys2Proof.Machine
end

