-- ==== Sys2Proof/Laws/Ops.lean ====
section
/-! SUPPORT. One lemma per shared operation, saying once everything it can do. -/

namespace Sys2Proof.Machine

variable {s t : State} {a : Word} {v : Byte}

/-! ## Memory -/

/-- The class of an address depends on the parameters alone. -/
theorem classAt_congr (h : t.params = s.params) (a : Word) : t.classAt a = s.classAt a := by
  unfold State.classAt; rw [h]

theorem memRead_mapped (h : s.classAt a ≠ .unmapped) : memRead s a = .ok (s.mem.read a.toNat) := by
  unfold memRead; split <;> simp_all

theorem memRead_unmapped (h : s.classAt a = .unmapped) : memRead s a = .error (.addressFault a) := by
  unfold memRead; rw [h]

theorem memRead_ok (h : memRead s a = .ok v) :
    s.classAt a ≠ .unmapped ∧ v = s.mem.read a.toNat := by
  unfold memRead at h; split at h <;> simp_all

theorem memRead_error {e : Fault} (h : memRead s a = .error e) :
    s.classAt a = .unmapped ∧ e = .addressFault a := by
  unfold memRead at h; split at h <;> simp_all

theorem memWrite_rw (h : s.classAt a = .rw) :
    memWrite s a v = .ok (s.setMem (s.mem.write a.toNat v)) := by
  unfold memWrite; rw [h]

theorem memWrite_ro (h : s.classAt a = .ro) : memWrite s a v = .ok s := by
  unfold memWrite; rw [h]

theorem memWrite_unmapped (h : s.classAt a = .unmapped) :
    memWrite s a v = .error (.addressFault a) := by
  unfold memWrite; rw [h]

theorem memWrite_ok (h : memWrite s a v = .ok t) :
    (s.classAt a = .rw ∧ t = s.setMem (s.mem.write a.toNat v)) ∨ (s.classAt a = .ro ∧ t = s) := by
  unfold memWrite at h; split at h <;> simp_all

theorem memWrite_error {e : Fault} (h : memWrite s a v = .error e) :
    s.classAt a = .unmapped ∧ e = .addressFault a := by
  unfold memWrite at h; split at h <;> simp_all

/-- A write that succeeds changes memory alone. -/
theorem memWrite_frame (h : memWrite s a v = .ok t) : t = s.setMem t.mem := by
  rcases memWrite_ok h with ⟨-, rfl⟩ | ⟨-, rfl⟩ <;> rfl

theorem memRead16_ok {w : Word} (h : memRead16 s a = .ok w) :
    ∃ lo hi, memRead s a = .ok lo ∧ memRead s (a + 1) = .ok hi ∧ w = joinBytes hi lo := by
  unfold memRead16 at h
  split at h
  · cases h
  · split at h
    · cases h
    · rename_i lo hlo _ hi hhi
      cases h
      exact ⟨lo, hi, hlo, hhi, rfl⟩

/-! ## The stack -/

theorem push16_ok {w : Word} (h : push16 s w = .ok t) :
    ∃ s1 s2, memWrite s (s.sp - 1) (hiByte w) = .ok s1 ∧ memWrite s1 (s.sp - 2) (loByte w) = .ok s2 ∧
      t = s2.setSp (s.sp - 2) := by
  unfold push16 at h
  split at h
  · cases h
  · split at h
    · cases h
    · rename_i s1 h1 _ s2 h2
      cases h
      exact ⟨s1, s2, h1, h2, rfl⟩

/-- A push changes memory and `SP` alone. -/
theorem push16_frame {w : Word} (h : push16 s w = .ok t) :
    t = (s.setMem t.mem).setSp (s.sp - 2) := by
  obtain ⟨s1, s2, h1, h2, rfl⟩ := push16_ok h
  rw [memWrite_frame h2, memWrite_frame h1]; rfl

theorem pop16_ok {p : Word × State} (h : pop16 s = .ok p) :
    memRead16 s s.sp = .ok p.1 ∧ p.2 = s.setSp (s.sp + 2) := by
  unfold pop16 at h
  split at h
  · cases h
  · cases h; exact ⟨‹_›, rfl⟩

/-! ## I/O -/

theorem ioRead_ok {port : Byte} {p : Byte × State} (h : ioRead s port = .ok p) :
    port ∉ s.params.io.absentReads ∧ p.1 = portAnswer s port ∧
      p.2 = (s.setInputs s.inputs.tail).setIoTrace (s.ioTrace ++ [.read port p.1]) := by
  unfold ioRead at h
  split at h
  · cases h
  · cases h; exact ⟨‹_›, rfl, rfl⟩

theorem ioWrite_ok {port : Byte} (h : ioWrite s port v = .ok t) :
    port ∉ s.params.io.absentWrites ∧ t = s.setIoTrace (s.ioTrace ++ [.write port v]) := by
  unfold ioWrite at h
  split at h
  · cases h
  · cases h; exact ⟨‹_›, rfl⟩

/-! ## Errors -/

theorem raiseError_halt {e : Fault} (h : s.params.errorPolicy = .halt) : raiseError e s = .fault e := by
  unfold raiseError; rw [h]; split <;> rfl

theorem raiseError_terminal {e : Fault} (h : e.terminal = true) : raiseError e s = .fault e := by
  unfold raiseError; rw [if_pos h]

theorem raiseError_proceed {e : Fault} (h : s.params.errorPolicy = .proceed)
    (he : e.terminal = false) : raiseError e s = .next (s.setAnswer (some (.error e))) := by
  unfold raiseError; rw [h, he]; rfl

/-- Raising an error stops, or reports the kind and changes nothing else. -/
theorem raiseError_next {e : Fault} (h : raiseError e s = .next t) :
    s.params.errorPolicy = .proceed ∧ e.terminal = false ∧ t = s.setAnswer (some (.error e)) := by
  unfold raiseError at h
  split at h
  · cases h
  · split at h
    · cases h
    · cases h; simp_all

theorem raiseError_ne_refused {e : Fault} {r : Refusal} : raiseError e s ≠ .refused r := by
  unfold raiseError
  split
  · simp
  · split <;> simp

@[simp] theorem orRaise_ok {α : Type} (v : α) (s : State) (k : α → Result) :
    orRaise (.ok v) s k = k v := rfl

@[simp] theorem orRaise_error {α : Type} (e : Fault) (s : State) (k : α → Result) :
    orRaise (.error e) s k = raiseError e s := rfl

theorem orRaise_next {α : Type} {x : Except Fault α} {k : α → Result} (h : orRaise x s k = .next t) :
    (∃ v, x = .ok v ∧ k v = .next t) ∨ (∃ e, x = .error e ∧ raiseError e s = .next t) := by
  cases x with
  | ok v => exact .inl ⟨v, rfl, h⟩
  | error e => exact .inr ⟨e, rfl, h⟩

@[simp] theorem failed_setAnswer_error (s : State) (e : Fault) :
    (s.setAnswer (some (.error e))).failed = true := rfl

@[simp] theorem failed_setAnswer_ok (s : State) : (s.setAnswer (some .ok)).failed = false := rfl

/-- Whether the last request failed depends on the answer alone. -/
theorem failed_congr (h : t.answer = s.answer) : t.failed = s.failed := by
  unfold State.failed; rw [h]

/-! ## Interrupts -/

theorem takeInterrupt_some {rec : Record} (h : takeInterrupt s = some (rec, t)) :
    s.inte = true ∧ s.pending = some rec ∧ t = s.setPending none := by
  unfold takeInterrupt consume at h
  split at h
  · split at h
    · cases h; exact ⟨‹_›, ‹_›, rfl⟩
    · cases h
  · cases h

theorem takeInterrupt_none (h : s.inte = false ∨ s.pending = none) : takeInterrupt s = none := by
  unfold takeInterrupt consume
  rcases h with h | h <;> simp [h]

end Sys2Proof.Machine
end

