-- ==== Sys2Proof/Laws/Operands.lean ====
section
/-! SUPPORT. The byte-order helpers, the accessors and the checks of step 4. -/

namespace Sys2Proof

@[simp] theorem hiByte_joinBytes (hi lo : Byte) : hiByte (joinBytes hi lo) = hi := by
  revert hi lo; unfold hiByte joinBytes; intro hi lo
  apply BitVec.eq_of_getLsbD_eq; intro k hk
  simp only [BitVec.getLsbD_extractLsb', BitVec.getLsbD_append]
  simp [hk, show ¬(8 + k < 8) by omega]

@[simp] theorem loByte_joinBytes (hi lo : Byte) : loByte (joinBytes hi lo) = lo := by
  unfold loByte joinBytes
  apply BitVec.eq_of_getLsbD_eq; intro k hk
  simp only [BitVec.getLsbD_extractLsb', BitVec.getLsbD_append]
  simp [hk]

@[simp] theorem joinBytes_split (v : Word) : joinBytes (hiByte v) (loByte v) = v := by
  unfold hiByte loByte joinBytes
  apply BitVec.eq_of_getLsbD_eq; intro k hk
  simp only [BitVec.getLsbD_extractLsb', BitVec.getLsbD_append]
  by_cases h : k < 8
  · simp [h]
  · simp [h, show k - 8 < 8 by omega, show 8 + (k - 8) = k by omega]

theorem joinBytes_toNat (hi lo : Byte) : (joinBytes hi lo).toNat = hi.toNat * 256 + lo.toNat := by
  unfold joinBytes
  rw [BitVec.toNat_append, ← Nat.shiftLeft_add_eq_or_of_lt (by exact lo.isLt), Nat.shiftLeft_eq]

end Sys2Proof

namespace Sys2Proof.Machine

variable {s t : State} {i : Instr} {r : Reg} {v : Byte} {w : Word}

/-! ## Accessors -/

/-- An 8-bit read that succeeds names a byte register, or `M` with its address mapped. -/
theorem rd8_ok (h : rd8 i r s = .ok v) : r.isOperand8 = true := by
  cases r <;> simp_all [rd8, Reg.isOperand8]

/-- An 8-bit read that fails: `SP`, or `M` at an unmapped address. -/
theorem rd8_error {e : Fault} (h : rd8 i r s = .error e) :
    (r = .sp ∧ e = .registerNot8Bit i) ∨ (r = .m ∧ s.classAt s.hl = .unmapped ∧ e = .addressFault s.hl) := by
  cases r <;> simp_all [rd8]
  exact memRead_error h

/-- An 8-bit write that succeeds: one byte register, or memory at H:L. -/
theorem wr8_ok (h : wr8 i r v s = .ok t) :
    t = s.setA v ∨ t = s.setB v ∨ t = s.setC v ∨ t = s.setD v ∨ t = s.setE v ∨ t = s.setH v ∨
      t = s.setL v ∨ (r = .m ∧ memWrite s s.hl v = .ok t) := by
  cases r <;> simp_all [wr8]

/-- A 16-bit write that succeeds: one pair, or `SP`. -/
theorem wrRP_ok (h : wrRP i r w s = .ok t) :
    (r = .b ∧ t = s.setBc w) ∨ (r = .d ∧ t = s.setDe w) ∨ (r = .h ∧ t = s.setHl w) ∨
      (r = .sp ∧ t = s.setSp w) := by
  cases r <;> simp_all [wrRP]

/-- The accessors that a well-formed 16-bit designator selects never fail. -/
theorem rdRP_total (h : r.isOperand16 = true) (i : Instr) (s : State) : ∃ w, rdRP i r s = .ok w := by
  cases r <;> simp_all [rdRP, Reg.isOperand16]

theorem wrRP_total (h : r.isOperand16 = true) (i : Instr) (w : Word) (s : State) :
    ∃ t, wrRP i r w s = .ok t := by
  cases r <;> simp_all [wrRP, Reg.isOperand16]

/-- A pair or `SP` reads back what was written. -/
theorem rdRP_wrRP (h : wrRP i r w s = .ok t) : rdRP i r t = .ok w := by
  rcases wrRP_ok h with ⟨rfl, rfl⟩ | ⟨rfl, rfl⟩ | ⟨rfl, rfl⟩ | ⟨rfl, rfl⟩ <;>
    simp [rdRP, State.bc, State.de, State.hl]

theorem rdRP_error {e : Fault} (h : rdRP i r s = .error e) : e = .unsupportedRegister i := by
  cases r <;> simp_all [rdRP]

theorem wrRP_error {e : Fault} (h : wrRP i r w s = .error e) : e = .unsupportedRegister i := by
  cases r <;> simp_all [wrRP]

/-! ## The checks of step 4: when each passes, and its one error otherwise -/

theorem noData_ok {u : Unit} (h : noData i = .ok u) : i.fields.data = .none := by
  unfold noData at h; split at h <;> simp_all

theorem noData_error {e : Fault} (h : noData i = .error e) : e = .invalidInstructionData i := by
  unfold noData at h; split at h <;> simp_all

theorem byteData_ok (h : byteData i = .ok v) : i.fields.data = .d8 v := by
  unfold byteData at h; split at h <;> simp_all

theorem byteData_error {e : Fault} (h : byteData i = .error e) : e = .invalidInstructionData i := by
  unfold byteData at h; split at h <;> simp_all

theorem wordData_ok (h : wordData i = .ok w) : i.fields.data = .d16 w := by
  unfold wordData at h; split at h <;> simp_all

theorem wordData_error {e : Fault} (h : wordData i = .error e) : e = .invalidInstructionData i := by
  unfold wordData at h; split at h <;> simp_all

theorem noRegs_ok {u : Unit} (h : noRegs i = .ok u) : i.fields.noRegs = true := by
  unfold noRegs at h; split at h <;> simp_all

theorem noRegs_error {e : Fault} (h : noRegs i = .error e) : e = .invalidInstructionData i := by
  unfold noRegs at h; split at h <;> simp_all

theorem oneReg_ok {allowed : Reg → Bool} (h : oneReg i allowed = .ok r) :
    i.fields.r1 = some r ∧ i.fields.r2 = none ∧ allowed r = true := by
  unfold oneReg at h
  split at h
  · split at h <;> simp_all
  all_goals cases h

theorem oneReg_error {allowed : Reg → Bool} {e : Fault} (h : oneReg i allowed = .error e) :
    e = .unsupportedRegister i := by
  unfold oneReg at h
  split at h
  · split at h <;> simp_all
  all_goals cases h; rfl

theorem sourceReg_ok (h : sourceReg i = .ok r) :
    i.fields.r1 = some r ∧ i.fields.r2 = none ∧ r.isOperand8 = true := by
  unfold sourceReg at h
  split at h
  · cases h
  · exact oneReg_ok h

theorem sourceReg_error {e : Fault} (h : sourceReg i = .error e) :
    (i.fields.r1 = some .sp ∧ e = .registerNot8Bit i) ∨ e = .unsupportedRegister i := by
  unfold sourceReg at h
  split at h
  · cases h; exact .inl ⟨‹_›, rfl⟩
  · exact .inr (oneReg_error h)

theorem movRegs_ok {p : Reg × Reg} (h : movRegs i = .ok p) :
    i.fields.r1 = some p.1 ∧ i.fields.r2 = some p.2 ∧ i.fields.movRegs = true := by
  unfold movRegs at h
  split at h
  · cases h
  · split at h
    · split at h
      · rename_i dst src hd hr hc
        cases h
        refine ⟨hd, hr, ?_⟩
        cases src <;> simp_all [Fields.movRegs, Reg.isOperand8]
      · cases h
    all_goals cases h

theorem movRegs_error {e : Fault} (h : movRegs i = .error e) :
    (i.fields.r2 = some .sp ∧ e = .registerNot8Bit i) ∨ e = .unsupportedRegister i := by
  unfold movRegs at h
  split at h
  · cases h; exact .inl ⟨‹_›, rfl⟩
  · split at h
    · split at h <;> simp_all
    all_goals cases h; exact .inr rfl

/-- A well-formed record passes its designator check, with the designators it has. -/
theorem oneReg_of {allowed : Reg → Bool} (h : i.fields.oneReg allowed = true) :
    ∃ r, oneReg i allowed = .ok r := by
  unfold oneReg
  unfold Fields.oneReg at h
  cases h1 : i.fields.r1 <;> cases h2 : i.fields.r2 <;> simp_all

theorem sourceReg_of (h : i.fields.oneReg Reg.isOperand8 = true) : ∃ r, sourceReg i = .ok r := by
  unfold sourceReg
  split
  · rename_i hs
    simp [Fields.oneReg, hs, Reg.isOperand8] at h
  · exact oneReg_of h

theorem movRegs_of (h : i.fields.movRegs = true) : ∃ p, movRegs i = .ok p := by
  unfold movRegs
  unfold Fields.movRegs at h
  cases h1 : i.fields.r1 <;> cases h2 : i.fields.r2 <;> simp_all
  rename_i dst src
  cases src <;> simp_all [Reg.isOperand8]

end Sys2Proof.Machine
end

