-- ==== Sys2Proof/Laws/Exec.lean ====
section
/-! SUPPORT. What any instruction can do when it answers a next state, said once: `exec_effect`. -/

namespace Sys2Proof.Machine

variable {s t u : State} {i : Instr}

/-- The bounds that hold of every instruction: the platform's side is untouched, memory changes at
read/write addresses only and stays canonical, and `INTE` is never cleared by step 4 (R18). -/
structure Effect (s t : State) : Prop where
  params  : t.params = s.params
  moves   : t.moves = s.moves
  pending : t.pending = s.pending
  inte    : t.inte = s.inte ∨ t.inte = true
  answer  : t.answer = s.answer ∨ ∃ e, t.answer = some (.error e)
  wf      : s.mem.wf = true → t.mem.wf = true
  outside : ∀ a : Word, s.classAt a ≠ .rw → t.mem.read a.toNat = s.mem.read a.toNat

theorem Effect.trans (h : Effect s t) (k : Effect t u) : Effect s u where
  params := k.params.trans h.params
  moves := k.moves.trans h.moves
  pending := k.pending.trans h.pending
  inte := by
    rcases k.inte with h1 | h1
    · rcases h.inte with h2 | h2
      · exact .inl (h1.trans h2)
      · exact .inr (h1.trans h2)
    · exact .inr h1
  answer := by
    rcases k.answer with h1 | h1
    · rw [h1]; exact h.answer
    · exact .inr h1
  wf := fun hs => k.wf (h.wf hs)
  outside := fun a ha =>
    (k.outside a (by rwa [classAt_congr h.params])).trans (h.outside a ha)

/-- An update of registers, flags and the I/O side only. -/
theorem Effect.of_same (hp : t.params = s.params) (hm : t.moves = s.moves)
    (hq : t.pending = s.pending) (hi : t.inte = s.inte ∨ t.inte = true) (ha : t.answer = s.answer)
    (hmem : t.mem = s.mem) : Effect s t where
  params := hp
  moves := hm
  pending := hq
  inte := hi
  answer := .inl ha
  wf := fun h => hmem ▸ h
  outside := fun _ _ => hmem ▸ rfl

theorem Effect.refl (s : State) : Effect s s := Effect.of_same rfl rfl rfl (.inl rfl) rfl rfl

theorem Effect.raise {e : Fault} (h : raiseError e s = .next t) : Effect s t := by
  obtain ⟨-, -, rfl⟩ := raiseError_next h
  exact ⟨rfl, rfl, rfl, .inl rfl, .inr ⟨e, rfl⟩, id, fun _ _ => rfl⟩

theorem Effect.memWrite {a : Word} {v : Byte} (h : memWrite s a v = .ok t) : Effect s t := by
  rcases memWrite_ok h with ⟨hrw, rfl⟩ | ⟨-, rfl⟩
  · refine ⟨rfl, rfl, rfl, .inl rfl, .inl rfl, fun hw => Memory.wf_write hw a.isLt, fun b hb => ?_⟩
    refine Memory.read_write_other s.mem v fun hab => hb ?_
    rw [← BitVec.eq_of_toNat_eq hab, hrw]
  · exact Effect.refl _

theorem Effect.push {w : Word} (h : push16 s w = .ok t) : Effect s t := by
  obtain ⟨s1, s2, h1, h2, rfl⟩ := push16_ok h
  exact ((Effect.memWrite h1).trans (Effect.memWrite h2)).trans
    (Effect.of_same rfl rfl rfl (.inl rfl) rfl rfl)

theorem Effect.pop {p : Word × State} (h : pop16 s = .ok p) : Effect s p.2 := by
  obtain ⟨-, h2⟩ := pop16_ok h
  rw [h2]; exact Effect.of_same rfl rfl rfl (.inl rfl) rfl rfl

theorem Effect.wr8 {r : Reg} {v : Byte} (h : wr8 i r v s = .ok t) : Effect s t := by
  rcases wr8_ok h with rfl | rfl | rfl | rfl | rfl | rfl | rfl | ⟨-, h⟩
  all_goals first
    | exact Effect.memWrite h
    | exact Effect.of_same rfl rfl rfl (.inl rfl) rfl rfl

theorem Effect.wrRP {r : Reg} {w : Word} (h : wrRP i r w s = .ok t) : Effect s t := by
  rcases wrRP_ok h with ⟨-, rfl⟩ | ⟨-, rfl⟩ | ⟨-, rfl⟩ | ⟨-, rfl⟩ <;>
    exact Effect.of_same rfl rfl rfl (.inl rfl) rfl rfl

theorem Effect.ioRead {port : Byte} {p : Byte × State} (h : ioRead s port = .ok p) : Effect s p.2 := by
  obtain ⟨-, -, h2⟩ := ioRead_ok h
  rw [h2]; exact Effect.of_same rfl rfl rfl (.inl rfl) rfl rfl

theorem Effect.ioWrite {port v : Byte} (h : ioWrite s port v = .ok t) : Effect s t := by
  obtain ⟨-, rfl⟩ := ioWrite_ok h
  exact Effect.of_same rfl rfl rfl (.inl rfl) rfl rfl

/-! ## `orRaise` passes the effect on -/

theorem Effect.orRaise {α : Type} {x : Except Fault α} {k : α → Result} (h : orRaise x s k = .next t)
    (hk : ∀ v, x = .ok v → k v = .next t → Effect s t) : Effect s t := by
  rcases orRaise_next h with ⟨v, hx, h⟩ | ⟨e, -, h⟩
  · exact hk v hx h
  · exact Effect.raise h

/-- A next state that differs from one already related in registers and flags only. -/
theorem Effect.next (h : Effect s u) (he : Host.Outcome.next (φ := Fault) (ρ := Refusal) v = .next t)
    (hv : Effect u v) : Effect s t := by
  cases he; exact h.trans hv

/-! ## Every instruction -/

theorem effect_lxi {r1 rest} (h : execLxi r1 rest s = .next t) : Effect s t :=
  Effect.orRaise h fun _ _ h => Effect.orRaise h fun _ _ h => Effect.orRaise h fun _ hv h =>
    by cases h; exact Effect.wrRP hv

theorem effect_ldax {r1 rest} (h : execLdax r1 rest s = .next t) : Effect s t :=
  Effect.orRaise h fun _ _ h => Effect.orRaise h fun _ _ h => Effect.orRaise h fun _ _ h =>
    Effect.orRaise h fun _ _ h => by cases h; exact Effect.of_same rfl rfl rfl (.inl rfl) rfl rfl

theorem effect_sta {f} (h : execSta f s = .next t) : Effect s t :=
  Effect.orRaise h fun _ _ h => Effect.orRaise h fun _ _ h => Effect.orRaise h fun _ hv h =>
    by cases h; exact Effect.memWrite hv

theorem effect_lda {f} (h : execLda f s = .next t) : Effect s t :=
  Effect.orRaise h fun _ _ h => Effect.orRaise h fun _ _ h => Effect.orRaise h fun _ _ h =>
    by cases h; exact Effect.of_same rfl rfl rfl (.inl rfl) rfl rfl

theorem effect_mov {r1 r2 rest} (h : execMov r1 r2 rest s = .next t) : Effect s t :=
  Effect.orRaise h fun _ _ h => Effect.orRaise h fun _ _ h => Effect.orRaise h fun _ _ h =>
    Effect.orRaise h fun _ hv h => by cases h; exact Effect.wr8 hv

theorem effect_mvi {r1 rest} (h : execMvi r1 rest s = .next t) : Effect s t :=
  Effect.orRaise h fun _ _ h => Effect.orRaise h fun _ _ h => Effect.orRaise h fun _ hv h =>
    by cases h; exact Effect.wr8 hv

theorem effect_xchg {f} (h : execXchg f s = .next t) : Effect s t :=
  Effect.orRaise h fun _ _ h => by cases h; exact Effect.of_same rfl rfl rfl (.inl rfl) rfl rfl

theorem effect_push {r1 rest} (h : execPush r1 rest s = .next t) : Effect s t :=
  Effect.orRaise h fun _ _ h => Effect.orRaise h fun _ _ h => Effect.orRaise h fun _ _ h =>
    Effect.orRaise h fun _ hv h => by cases h; exact Effect.push hv

theorem effect_pop {r1 rest} (h : execPop r1 rest s = .next t) : Effect s t :=
  Effect.orRaise h fun _ _ h => Effect.orRaise h fun _ _ h => Effect.orRaise h fun _ hp h =>
    Effect.orRaise h fun _ hv h => by cases h; exact (Effect.pop hp).trans (Effect.wrRP hv)

theorem effect_inx {r1 rest} (h : execInx r1 rest s = .next t) : Effect s t :=
  Effect.orRaise h fun _ _ h => Effect.orRaise h fun _ _ h => Effect.orRaise h fun _ _ h =>
    Effect.orRaise h fun _ hv h => by cases h; exact Effect.wrRP hv

theorem effect_dcx {r1 rest} (h : execDcx r1 rest s = .next t) : Effect s t :=
  Effect.orRaise h fun _ _ h => Effect.orRaise h fun _ _ h => Effect.orRaise h fun _ _ h =>
    Effect.orRaise h fun _ hv h => by cases h; exact Effect.wrRP hv

theorem effect_inr {r1 rest} (h : execInr r1 rest s = .next t) : Effect s t :=
  Effect.orRaise h fun _ _ h => Effect.orRaise h fun _ _ h => Effect.orRaise h fun _ _ h =>
    Effect.orRaise h fun _ hv h =>
    by cases h; exact (Effect.wr8 hv).trans (Effect.of_same rfl rfl rfl (.inl rfl) rfl rfl)

theorem effect_dcr {r1 rest} (h : execDcr r1 rest s = .next t) : Effect s t :=
  Effect.orRaise h fun _ _ h => Effect.orRaise h fun _ _ h => Effect.orRaise h fun _ _ h =>
    Effect.orRaise h fun _ hv h =>
    by cases h; exact (Effect.wr8 hv).trans (Effect.of_same rfl rfl rfl (.inl rfl) rfl rfl)

theorem effect_writeAcc (x : Byte × Bool) (s : State) : Effect s (writeAcc x s) :=
  Effect.of_same rfl rfl rfl (.inl rfl) rfl rfl

theorem effect_add {r1 rest} (h : execAdd r1 rest s = .next t) : Effect s t :=
  Effect.orRaise h fun _ _ h => Effect.orRaise h fun _ _ h => Effect.orRaise h fun _ _ h =>
    by cases h; exact effect_writeAcc _ _

theorem effect_adi {f} (h : execAdi f s = .next t) : Effect s t :=
  Effect.orRaise h fun _ _ h => Effect.orRaise h fun _ _ h =>
    by cases h; exact effect_writeAcc _ _

theorem effect_sub {r1 rest} (h : execSub r1 rest s = .next t) : Effect s t :=
  Effect.orRaise h fun _ _ h => Effect.orRaise h fun _ _ h => Effect.orRaise h fun _ _ h =>
    by cases h; exact effect_writeAcc _ _

theorem effect_sui {f} (h : execSui f s = .next t) : Effect s t :=
  Effect.orRaise h fun _ _ h => Effect.orRaise h fun _ _ h =>
    by cases h; exact effect_writeAcc _ _

theorem effect_ana {r1 rest} (h : execAna r1 rest s = .next t) : Effect s t :=
  Effect.orRaise h fun _ _ h => Effect.orRaise h fun _ _ h => Effect.orRaise h fun _ _ h =>
    by cases h; exact effect_writeAcc _ _

theorem effect_xra {r1 rest} (h : execXra r1 rest s = .next t) : Effect s t :=
  Effect.orRaise h fun _ _ h => Effect.orRaise h fun _ _ h => Effect.orRaise h fun _ _ h =>
    by cases h; exact effect_writeAcc _ _

theorem effect_ani {f} (h : execAni f s = .next t) : Effect s t :=
  Effect.orRaise h fun _ _ h => Effect.orRaise h fun _ _ h =>
    by cases h; exact effect_writeAcc _ _

theorem effect_dad {r1 rest} (h : execDad r1 rest s = .next t) : Effect s t :=
  Effect.orRaise h fun _ _ h => Effect.orRaise h fun _ _ h => Effect.orRaise h fun _ _ h =>
    by cases h; exact Effect.of_same rfl rfl rfl (.inl rfl) rfl rfl

theorem effect_rrc {f} (h : execRrc f s = .next t) : Effect s t :=
  Effect.orRaise h fun _ _ h => by cases h; exact Effect.of_same rfl rfl rfl (.inl rfl) rfl rfl

theorem effect_cpi {f} (h : execCpi f s = .next t) : Effect s t :=
  Effect.orRaise h fun _ _ h => Effect.orRaise h fun _ _ h =>
    by cases h; exact Effect.of_same rfl rfl rfl (.inl rfl) rfl rfl

theorem effect_jmp {f} (h : execJmp f s = .next t) : Effect s t :=
  Effect.orRaise h fun _ _ h => Effect.orRaise h fun _ _ h =>
    by cases h; exact Effect.of_same rfl rfl rfl (.inl rfl) rfl rfl

/-- A conditional jump: the state, or the state with another `PC`. -/
theorem effect_condJump (c : Bool) (addr : Word) :
    Effect s (if c then s.setPc addr else s) ∧ Effect s (if c then s else s.setPc addr) := by
  cases c
  · exact ⟨Effect.refl s, Effect.of_same rfl rfl rfl (.inl rfl) rfl rfl⟩
  · exact ⟨Effect.of_same rfl rfl rfl (.inl rfl) rfl rfl, Effect.refl s⟩

theorem effect_jz {f} (h : execJz f s = .next t) : Effect s t :=
  Effect.orRaise h fun addr _ h => Effect.orRaise h fun _ _ h => by
    cases h; exact (effect_condJump _ addr).1

theorem effect_jnz {f} (h : execJnz f s = .next t) : Effect s t :=
  Effect.orRaise h fun addr _ h => Effect.orRaise h fun _ _ h => by
    cases h; exact (effect_condJump _ addr).2

theorem effect_jnc {f} (h : execJnc f s = .next t) : Effect s t :=
  Effect.orRaise h fun addr _ h => Effect.orRaise h fun _ _ h => by
    cases h; exact (effect_condJump _ addr).1

theorem effect_call {f} (h : execCall f s = .next t) : Effect s t :=
  Effect.orRaise h fun _ _ h => Effect.orRaise h fun _ _ h => Effect.orRaise h fun _ hv h =>
    by cases h; exact (Effect.push hv).trans (Effect.of_same rfl rfl rfl (.inl rfl) rfl rfl)

theorem effect_ret {f} (h : execRet f s = .next t) : Effect s t :=
  Effect.orRaise h fun _ _ h => Effect.orRaise h fun _ hv h =>
    by cases h; exact (Effect.pop hv).trans (Effect.of_same rfl rfl rfl (.inl rfl) rfl rfl)

theorem effect_out {f} (h : execOut f s = .next t) : Effect s t :=
  Effect.orRaise h fun _ _ h => Effect.orRaise h fun _ _ h => Effect.orRaise h fun _ hv h =>
    by cases h; exact Effect.ioWrite hv

theorem effect_inp {f} (h : execInp f s = .next t) : Effect s t :=
  Effect.orRaise h fun _ _ h => Effect.orRaise h fun _ _ h => Effect.orRaise h fun _ hv h =>
    by cases h; exact (Effect.ioRead hv).trans (Effect.of_same rfl rfl rfl (.inl rfl) rfl rfl)

theorem effect_ei {f} (h : execEi f s = .next t) : Effect s t :=
  Effect.orRaise h fun _ _ h => by cases h; exact Effect.of_same rfl rfl rfl (.inr rfl) rfl rfl

theorem effect_nop {f} (h : execNop f s = .next t) : Effect s t :=
  Effect.orRaise h fun _ _ h => by cases h; exact Effect.refl s

theorem effect_unimpl {u} (h : execUnimpl u s = .next t) : Effect s t := Effect.raise h

/-- Whatever the instruction, a next state is within `Effect`. -/
theorem exec_effect (h : exec i s = .next t) : Effect s t := by
  cases i with
  | nop => exact effect_nop h
  | lxi => exact effect_lxi h
  | inx => exact effect_inx h
  | inr => exact effect_inr h
  | dcr => exact effect_dcr h
  | mvi => exact effect_mvi h
  | dad => exact effect_dad h
  | ldax => exact effect_ldax h
  | dcx => exact effect_dcx h
  | rrc => exact effect_rrc h
  | sta => exact effect_sta h
  | lda => exact effect_lda h
  | mov => exact effect_mov h
  | add => exact effect_add h
  | sub => exact effect_sub h
  | ana => exact effect_ana h
  | xra => exact effect_xra h
  | pop => exact effect_pop h
  | jnz => exact effect_jnz h
  | jmp => exact effect_jmp h
  | push => exact effect_push h
  | adi => exact effect_adi h
  | ret => exact effect_ret h
  | jz => exact effect_jz h
  | call => exact effect_call h
  | jnc => exact effect_jnc h
  | out => exact effect_out h
  | sui => exact effect_sui h
  | inp => exact effect_inp h
  | ani => exact effect_ani h
  | xchg => exact effect_xchg h
  | ei => exact effect_ei h
  | cpi => exact effect_cpi h
  | unimpl => exact effect_unimpl h

end Sys2Proof.Machine
end

