-- ==== Sys2Proof/Laws/Control.lean ====
section
/-! SUPPORT. What a fetch, a cycle and a step can do, said once. -/

namespace Sys2Proof.Machine

variable {s t : State}

/-- A fetch fails only where a byte of the instruction is unmapped. -/
theorem fetchAt_error {a : Word} {e : Fault} (h : fetchAt s a = .error e) :
    ∃ b : Word, s.classAt b = .unmapped ∧ e = .addressFault b := by
  unfold fetchAt at h
  split at h
  · cases h; exact ⟨_, memRead_error ‹_›⟩
  · split at h
    · cases h
    · cases h
    · split at h
      · cases h; exact ⟨_, memRead_error ‹_›⟩
      · cases h
    · split at h
      · cases h; exact ⟨_, memRead_error ‹_›⟩
      · split at h
        · cases h; exact ⟨_, memRead_error ‹_›⟩
        · cases h

/-- What the ordinary half of a cycle does: nothing past the program's end, else one instruction. -/
theorem ordinary_next (h : ordinary s = .next t) :
    (s.params.progLen ≤ s.pc.toNat ∧ t = s) ∨
      ∃ rec, s.pc.toNat < s.params.progLen ∧ fetchAt s s.pc = .ok rec ∧
        exec rec (s.setPc (s.pc + rec.fields.len.toWord)) = .next t := by
  unfold ordinary at h
  split at h
  · rcases orRaise_next h with ⟨rec, hr, h⟩ | ⟨e, he, h⟩
    · exact .inr ⟨rec, ‹_›, hr, h⟩
    · obtain ⟨b, -, rfl⟩ := fetchAt_error he
      rw [raiseError_terminal rfl] at h; cases h
  · cases h; exact .inl ⟨by omega, rfl⟩

/-- What a cycle does: the ordinary half alone, or the pending record's instruction and then, unless that
failed, the ordinary half. -/
theorem cycle_next (h : cycle s = .next t) :
    ((s.inte = false ∨ s.pending = none) ∧ ordinary (s.setAnswer (some .ok)) = .next t) ∨
      ∃ rec u, s.inte = true ∧ s.pending = some rec ∧
        exec rec (((s.setAnswer (some .ok)).setPending none).setInte false) = .next u ∧
        ((u.failed = true ∧ t = u) ∨ (u.failed = false ∧ ordinary u = .next t)) := by
  unfold cycle at h
  split at h
  · rename_i hn
    refine .inl ⟨?_, h⟩
    by_cases hi : s.inte = true
    · right
      cases hp : s.pending with
      | none => rfl
      | some rec => simp [takeInterrupt, consume, hi, hp] at hn
    · left; simpa using hi
  · rename_i rec s1 hs
    obtain ⟨hi, hp, rfl⟩ := takeInterrupt_some hs
    split at h
    · rename_i u hu
      refine .inr ⟨rec, u, hi, hp, hu, ?_⟩
      split at h
      · cases h; exact .inl ⟨‹_›, rfl⟩
      · rename_i hf
        exact .inr ⟨by simpa using hf, h⟩
    · cases h
    · cases h

/-- What a step does: one of the platform's moves. -/
theorem step_next (h : step s = .next t) :
    (s.moves = [] ∧ cycle s = .next t) ∨
      (∃ rest, s.moves = .cycle :: rest ∧ cycle (s.setMoves rest) = .next t) ∨
      (∃ rest, s.moves = .run :: rest ∧ runTurn rest s = .next t) ∨
      (∃ rec rest, s.moves = .generate rec :: rest ∧ t = generate (s.setMoves rest) rec) ∨
      (∃ a v rest, s.moves = .poke a v :: rest ∧ t = (s.setMoves rest).setMem (s.mem.write a.toNat v)) ∨
      (∃ rest, s.moves = .reset :: rest ∧ t = warmReset (s.setMoves rest)) := by
  unfold step platformStep at h
  split at h
  · exact .inl ⟨‹_›, h⟩
  · exact .inr (.inl ⟨_, ‹_›, h⟩)
  · exact .inr (.inr (.inl ⟨_, ‹_›, h⟩))
  · cases h; exact .inr (.inr (.inr (.inl ⟨_, _, ‹_›, rfl⟩)))
  · cases h; exact .inr (.inr (.inr (.inr (.inl ⟨_, _, _, ‹_›, rfl⟩))))
  · cases h; exact .inr (.inr (.inr (.inr (.inr ⟨_, ‹_›, rfl⟩))))

/-- One turn of a run: the run ends, or one cycle happens. -/
theorem runTurn_next {rest : List PlatformMove} (h : runTurn rest s = .next t) :
    (s.params.progLen ≤ s.pc.toNat ∧ t = (s.setMoves rest).setAnswer (some .ended)) ∨
      ∃ u, s.pc.toNat < s.params.progLen ∧ cycle s = .next u ∧
        t = if u.failed then u.setMoves rest else u := by
  unfold runTurn at h
  split at h
  · split at h
    · rename_i u hu
      cases h; exact .inr ⟨u, ‹_›, hu, rfl⟩
    · cases h
    · cases h
  · cases h; exact .inl ⟨by omega, rfl⟩

/-- What any part of a step leaves alone: the parameters, the canonical form, and every byte that is not in a
read/write region. -/
structure Keeps (s t : State) : Prop where
  params  : t.params = s.params
  wf      : s.mem.wf = true → t.mem.wf = true
  outside : ∀ a : Word, s.classAt a ≠ .rw → t.mem.read a.toNat = s.mem.read a.toNat

theorem Effect.keeps (h : Effect s t) : Keeps s t := ⟨h.params, h.wf, h.outside⟩

theorem Keeps.trans {u : State} (h : Keeps s t) (k : Keeps t u) : Keeps s u :=
  ⟨k.params.trans h.params, fun hs => k.wf (h.wf hs),
    fun a ha => (k.outside a (by rwa [classAt_congr h.params])).trans (h.outside a ha)⟩

theorem Keeps.of_same (hp : t.params = s.params) (hm : t.mem = s.mem) : Keeps s t :=
  ⟨hp, fun h => hm ▸ h, fun _ _ => hm ▸ rfl⟩

/-- Anything that happens from a state with the same memory and parameters. -/
theorem Keeps.from_same {u : State} (h : Keeps u t) (hp : u.params = s.params) (hm : u.mem = s.mem) :
    Keeps s t := (Keeps.of_same hp hm).trans h

theorem ordinary_keeps (h : ordinary s = .next t) : Keeps s t := by
  rcases ordinary_next h with ⟨-, rfl⟩ | ⟨rec, -, -, hx⟩
  · exact Keeps.of_same rfl rfl
  · exact (exec_effect hx).keeps.from_same rfl rfl

theorem cycle_keeps (h : cycle s = .next t) : Keeps s t := by
  rcases cycle_next h with ⟨-, h⟩ | ⟨rec, u, -, -, hx, ⟨-, rfl⟩ | ⟨-, h⟩⟩
  · exact (ordinary_keeps h).from_same rfl rfl
  · exact (exec_effect hx).keeps.from_same rfl rfl
  · exact ((exec_effect hx).keeps.trans (ordinary_keeps h)).from_same rfl rfl

end Sys2Proof.Machine
end

