-- ==== Sys2Proof/Laws/PerInstr.lean ====
section
/-! SUPPORT. Facts about every instruction as syntax, one lemma per constructor. -/

namespace Sys2Proof.Laws

/-- How many bytes an instruction has in memory (spec/30_encoding.md R71): an unimplemented byte stands for
itself alone. -/
def byteCount : Instr → Nat
  | .unimpl _ => 1
  | i => i.decodedLen.toWord.toNat

/-- A well-formed instruction has an encoding, of as many bytes as its format has. -/
def EncodedLength.Statement (i : Instr) : Prop :=
  i.wf = true → ∃ bs, encode i = some bs ∧ bs.length = byteCount i

/-- A format's encoder answers when the payload is right and the opcode byte exists. -/
theorem encodeF1_of {data : Payload} {b : Byte} (h : data.isNone = true) :
    encodeF1 data (some b) = some [b] := by
  cases data <;> simp_all [Payload.isNone, encodeF1]

theorem encodeF2_of {data : Payload} {b : Byte} (h : data.isD8 = true) :
    ∃ v, encodeF2 data (some b) = some [b, v] := by
  cases data <;> simp_all [Payload.isD8, encodeF2]

theorem encodeF3_of {data : Payload} {b : Byte} (h : data.isD16 = true) :
    ∃ lo hi, encodeF3 data (some b) = some [b, lo, hi] := by
  cases data <;> simp_all [Payload.isD16, encodeF3]

/-- A designator check that passes gives the designator its 3-bit code. -/
theorem code8_of {r : Option Reg} (h : r.any Reg.isOperand8 = true) : ∃ c, r.bind Reg.code8 = some c := by
  cases r with
  | none => cases h
  | some r => cases r <;> simp_all [Reg.isOperand8, Reg.code8]

/-- A designator check for a 16-bit position, however narrow, gives the designator its 2-bit code. -/
theorem code16_of {r : Option Reg} {allowed : Reg → Bool}
    (hs : ∀ x : Reg, allowed x = true → x.isOperand16 = true) (h : r.any allowed = true) :
    ∃ c, r.bind Reg.code16 = some c := by
  cases r with
  | none => cases h
  | some r =>
    have h16 := hs r (by simpa using h)
    cases r <;> simp_all [Reg.isOperand16, Reg.code16]

theorem operand16_of_stack (r : Reg) (h : r.isStackOperand = true) : r.isOperand16 = true := by
  cases r <;> simp_all [Reg.isOperand16, Reg.isStackOperand]

theorem operand16_of_index (r : Reg) (h : r.isIndexOperand = true) : r.isOperand16 = true := by
  cases r <;> simp_all [Reg.isOperand16, Reg.isIndexOperand]

theorem any_of_oneReg {f : Fields} {allowed : Reg → Bool} (h : f.oneReg allowed = true) :
    f.r1.any allowed = true := (Bool.and_eq_true_iff.mp h).1

/-- An F1 instruction with an opcode byte. -/
theorem encodedLength_f1 {i : Instr} {data : Payload} {b : Option Byte}
    (hd : data.isNone = true) (hb : ∃ x, b = some x) (he : encode i = encodeF1 data b)
    (hn : byteCount i = 1) : ∃ bs, encode i = some bs ∧ bs.length = byteCount i := by
  obtain ⟨x, rfl⟩ := hb
  exact ⟨[x], he.trans (encodeF1_of hd), hn.symm⟩

/-- An F2 instruction with an opcode byte. -/
theorem encodedLength_f2 {i : Instr} {data : Payload} {b : Option Byte}
    (hd : data.isD8 = true) (hb : ∃ x, b = some x) (he : encode i = encodeF2 data b)
    (hn : byteCount i = 2) : ∃ bs, encode i = some bs ∧ bs.length = byteCount i := by
  obtain ⟨x, rfl⟩ := hb
  obtain ⟨v, hv⟩ := encodeF2_of (b := x) hd
  exact ⟨[x, v], he.trans hv, hn.symm⟩

/-- An F3 instruction with an opcode byte. -/
theorem encodedLength_f3 {i : Instr} {data : Payload} {b : Option Byte}
    (hd : data.isD16 = true) (hb : ∃ x, b = some x) (he : encode i = encodeF3 data b)
    (hn : byteCount i = 3) : ∃ bs, encode i = some bs ∧ bs.length = byteCount i := by
  obtain ⟨x, rfl⟩ := hb
  obtain ⟨lo, hi, hv⟩ := encodeF3_of (b := x) hd
  exact ⟨[x, lo, hi], he.trans hv, hn.symm⟩

theorem patternRp_of {f : Fields} {allowed : Reg → Bool}
    (hs : ∀ x : Reg, allowed x = true → x.isOperand16 = true) (h : f.oneReg allowed = true)
    (g : BitVec 2) (l : BitVec 4) : ∃ x, patternRp g l f.r1 = some x := by
  obtain ⟨c, hc⟩ := code16_of hs (any_of_oneReg h)
  exact ⟨_, by unfold patternRp; rw [hc]; rfl⟩

theorem patternDdd_of {f : Fields} (h : f.oneReg Reg.isOperand8 = true) (l : BitVec 3) :
    ∃ x, patternDdd l f.r1 = some x := by
  obtain ⟨c, hc⟩ := code8_of (any_of_oneReg h)
  exact ⟨_, by unfold patternDdd; rw [hc]; rfl⟩

theorem patternAlu_of {f : Fields} (h : f.oneReg Reg.isOperand8 = true) (l : BitVec 3) :
    ∃ x, patternAlu l f.r1 = some x := by
  obtain ⟨c, hc⟩ := code8_of (any_of_oneReg h)
  exact ⟨_, by unfold patternAlu; rw [hc]; rfl⟩

theorem patternMov_of {f : Fields} (h : f.movRegs = true) : ∃ x, patternMov f.r1 f.r2 = some x := by
  simp only [Fields.movRegs, Bool.and_eq_true] at h
  obtain ⟨c, hc⟩ := code8_of h.1.1
  obtain ⟨e, he⟩ := code8_of h.1.2
  exact ⟨_, by unfold patternMov; rw [hc, he]⟩

/-- For a well-formed instruction the encoder goes on to its format. -/
theorem encode_wf {i : Instr} (h : i.wf = true) {x : Option (List Byte)}
    (hx : (if i.wf then x else none) = encode i) : encode i = x := by
  rw [← hx, if_pos h]

theorem EncodedLength.nop (f : Fields) : EncodedLength.Statement (.nop f) := fun h =>
  encodedLength_f1 (Bool.and_eq_true_iff.mp h).2 ⟨_, rfl⟩ (encode_wf h rfl) rfl

theorem EncodedLength.rrc (f : Fields) : EncodedLength.Statement (.rrc f) := fun h =>
  encodedLength_f1 (Bool.and_eq_true_iff.mp h).2 ⟨_, rfl⟩ (encode_wf h rfl) rfl

theorem EncodedLength.ret (f : Fields) : EncodedLength.Statement (.ret f) := fun h =>
  encodedLength_f1 (Bool.and_eq_true_iff.mp h).2 ⟨_, rfl⟩ (encode_wf h rfl) rfl

theorem EncodedLength.xchg (f : Fields) : EncodedLength.Statement (.xchg f) := fun h =>
  encodedLength_f1 (Bool.and_eq_true_iff.mp h).2 ⟨_, rfl⟩ (encode_wf h rfl) rfl

theorem EncodedLength.ei (f : Fields) : EncodedLength.Statement (.ei f) := fun h =>
  encodedLength_f1 (Bool.and_eq_true_iff.mp h).2 ⟨_, rfl⟩ (encode_wf h rfl) rfl

theorem EncodedLength.adi (f : Fields) : EncodedLength.Statement (.adi f) := fun h =>
  encodedLength_f2 (Bool.and_eq_true_iff.mp h).2 ⟨_, rfl⟩ (encode_wf h rfl) rfl

theorem EncodedLength.out (f : Fields) : EncodedLength.Statement (.out f) := fun h =>
  encodedLength_f2 (Bool.and_eq_true_iff.mp h).2 ⟨_, rfl⟩ (encode_wf h rfl) rfl

theorem EncodedLength.sui (f : Fields) : EncodedLength.Statement (.sui f) := fun h =>
  encodedLength_f2 (Bool.and_eq_true_iff.mp h).2 ⟨_, rfl⟩ (encode_wf h rfl) rfl

theorem EncodedLength.inp (f : Fields) : EncodedLength.Statement (.inp f) := fun h =>
  encodedLength_f2 (Bool.and_eq_true_iff.mp h).2 ⟨_, rfl⟩ (encode_wf h rfl) rfl

theorem EncodedLength.ani (f : Fields) : EncodedLength.Statement (.ani f) := fun h =>
  encodedLength_f2 (Bool.and_eq_true_iff.mp h).2 ⟨_, rfl⟩ (encode_wf h rfl) rfl

theorem EncodedLength.cpi (f : Fields) : EncodedLength.Statement (.cpi f) := fun h =>
  encodedLength_f2 (Bool.and_eq_true_iff.mp h).2 ⟨_, rfl⟩ (encode_wf h rfl) rfl

theorem EncodedLength.sta (f : Fields) : EncodedLength.Statement (.sta f) := fun h =>
  encodedLength_f3 (Bool.and_eq_true_iff.mp h).2 ⟨_, rfl⟩ (encode_wf h rfl) rfl

theorem EncodedLength.lda (f : Fields) : EncodedLength.Statement (.lda f) := fun h =>
  encodedLength_f3 (Bool.and_eq_true_iff.mp h).2 ⟨_, rfl⟩ (encode_wf h rfl) rfl

theorem EncodedLength.jnz (f : Fields) : EncodedLength.Statement (.jnz f) := fun h =>
  encodedLength_f3 (Bool.and_eq_true_iff.mp h).2 ⟨_, rfl⟩ (encode_wf h rfl) rfl

theorem EncodedLength.jmp (f : Fields) : EncodedLength.Statement (.jmp f) := fun h =>
  encodedLength_f3 (Bool.and_eq_true_iff.mp h).2 ⟨_, rfl⟩ (encode_wf h rfl) rfl

theorem EncodedLength.jz (f : Fields) : EncodedLength.Statement (.jz f) := fun h =>
  encodedLength_f3 (Bool.and_eq_true_iff.mp h).2 ⟨_, rfl⟩ (encode_wf h rfl) rfl

theorem EncodedLength.call (f : Fields) : EncodedLength.Statement (.call f) := fun h =>
  encodedLength_f3 (Bool.and_eq_true_iff.mp h).2 ⟨_, rfl⟩ (encode_wf h rfl) rfl

theorem EncodedLength.jnc (f : Fields) : EncodedLength.Statement (.jnc f) := fun h =>
  encodedLength_f3 (Bool.and_eq_true_iff.mp h).2 ⟨_, rfl⟩ (encode_wf h rfl) rfl

theorem EncodedLength.lxi (r1 : Option Reg) (rest : Rest1) :
    EncodedLength.Statement (.lxi r1 rest) := fun h =>
  encodedLength_f3 (Bool.and_eq_true_iff.mp h).2
    (patternRp_of (fun _ h => h) (Bool.and_eq_true_iff.mp h).1 _ _) (encode_wf h rfl) rfl

theorem EncodedLength.inx (r1 : Option Reg) (rest : Rest1) :
    EncodedLength.Statement (.inx r1 rest) := fun h =>
  encodedLength_f1 (Bool.and_eq_true_iff.mp h).2
    (patternRp_of (fun _ h => h) (Bool.and_eq_true_iff.mp h).1 _ _) (encode_wf h rfl) rfl

theorem EncodedLength.dcx (r1 : Option Reg) (rest : Rest1) :
    EncodedLength.Statement (.dcx r1 rest) := fun h =>
  encodedLength_f1 (Bool.and_eq_true_iff.mp h).2
    (patternRp_of (fun _ h => h) (Bool.and_eq_true_iff.mp h).1 _ _) (encode_wf h rfl) rfl

theorem EncodedLength.dad (r1 : Option Reg) (rest : Rest1) :
    EncodedLength.Statement (.dad r1 rest) := fun h =>
  encodedLength_f1 (Bool.and_eq_true_iff.mp h).2
    (patternRp_of (fun _ h => h) (Bool.and_eq_true_iff.mp h).1 _ _) (encode_wf h rfl) rfl

theorem EncodedLength.ldax (r1 : Option Reg) (rest : Rest1) :
    EncodedLength.Statement (.ldax r1 rest) := fun h =>
  encodedLength_f1 (Bool.and_eq_true_iff.mp h).2
    (patternRp_of operand16_of_index (Bool.and_eq_true_iff.mp h).1 _ _) (encode_wf h rfl) rfl

theorem EncodedLength.pop (r1 : Option Reg) (rest : Rest1) :
    EncodedLength.Statement (.pop r1 rest) := fun h =>
  encodedLength_f1 (Bool.and_eq_true_iff.mp h).2
    (patternRp_of operand16_of_stack (Bool.and_eq_true_iff.mp h).1 _ _) (encode_wf h rfl) rfl

theorem EncodedLength.push (r1 : Option Reg) (rest : Rest1) :
    EncodedLength.Statement (.push r1 rest) := fun h =>
  encodedLength_f1 (Bool.and_eq_true_iff.mp h).2
    (patternRp_of operand16_of_stack (Bool.and_eq_true_iff.mp h).1 _ _) (encode_wf h rfl) rfl

theorem EncodedLength.inr (r1 : Option Reg) (rest : Rest1) :
    EncodedLength.Statement (.inr r1 rest) := fun h =>
  encodedLength_f1 (Bool.and_eq_true_iff.mp h).2
    (patternDdd_of (Bool.and_eq_true_iff.mp h).1 _) (encode_wf h rfl) rfl

theorem EncodedLength.dcr (r1 : Option Reg) (rest : Rest1) :
    EncodedLength.Statement (.dcr r1 rest) := fun h =>
  encodedLength_f1 (Bool.and_eq_true_iff.mp h).2
    (patternDdd_of (Bool.and_eq_true_iff.mp h).1 _) (encode_wf h rfl) rfl

theorem EncodedLength.mvi (r1 : Option Reg) (rest : Rest1) :
    EncodedLength.Statement (.mvi r1 rest) := fun h =>
  encodedLength_f2 (Bool.and_eq_true_iff.mp h).2
    (patternDdd_of (Bool.and_eq_true_iff.mp h).1 _) (encode_wf h rfl) rfl

theorem EncodedLength.add (r1 : Option Reg) (rest : Rest1) :
    EncodedLength.Statement (.add r1 rest) := fun h =>
  encodedLength_f1 (Bool.and_eq_true_iff.mp h).2
    (patternAlu_of (Bool.and_eq_true_iff.mp h).1 _) (encode_wf h rfl) rfl

theorem EncodedLength.sub (r1 : Option Reg) (rest : Rest1) :
    EncodedLength.Statement (.sub r1 rest) := fun h =>
  encodedLength_f1 (Bool.and_eq_true_iff.mp h).2
    (patternAlu_of (Bool.and_eq_true_iff.mp h).1 _) (encode_wf h rfl) rfl

theorem EncodedLength.ana (r1 : Option Reg) (rest : Rest1) :
    EncodedLength.Statement (.ana r1 rest) := fun h =>
  encodedLength_f1 (Bool.and_eq_true_iff.mp h).2
    (patternAlu_of (Bool.and_eq_true_iff.mp h).1 _) (encode_wf h rfl) rfl

theorem EncodedLength.xra (r1 : Option Reg) (rest : Rest1) :
    EncodedLength.Statement (.xra r1 rest) := fun h =>
  encodedLength_f1 (Bool.and_eq_true_iff.mp h).2
    (patternAlu_of (Bool.and_eq_true_iff.mp h).1 _) (encode_wf h rfl) rfl

theorem EncodedLength.mov (r1 r2 : Option Reg) (rest : Rest2) :
    EncodedLength.Statement (.mov r1 r2 rest) := fun h =>
  encodedLength_f1 (Bool.and_eq_true_iff.mp h).2
    (patternMov_of (Bool.and_eq_true_iff.mp h).1) (encode_wf h rfl) rfl

theorem EncodedLength.unimpl (u : UnimplRest) : EncodedLength.Statement (.unimpl u) := fun h =>
  ⟨[u.byte], encode_wf h rfl, rfl⟩

end Sys2Proof.Laws
end

