-- ==== Sys2Proof/Tests/Slice0.lean ====
section
/-! SUPPORT. The model's own tests: ill-formed terms are refused, a word of each instruction decodes to it, one
step of each instruction gives what spec/95_test_vectors.md says, and every statement that has hypotheses has
a witness that meets them. Expected results are the spec's; each test names its vector. -/

namespace Sys2Proof.Tests

open Sys2Proof.Machine

/-! ## Helpers -/

/-- The next state, if there is one. -/
def after (r : Result) : Option State :=
  match r with
  | .next t => some t
  | .fault _ => none
  | .refused _ => none

/-- The fault, if there is one. -/
def stopOf (r : Result) : Option Fault :=
  match r with
  | .next _ => none
  | .fault e => some e
  | .refused _ => none

/-- The start state of the vectors: reset, the bytes at address 0, and their count as `PROG_LEN`. -/
def prog (bytes : List Byte) : State := State.reset.loadProgram bytes

/-- A byte of memory set before the test. -/
def byteAt (a : Nat) (v : Byte) (s : State) : State := s.setMem (s.mem.write a v)

/-- One address given a class of its own. -/
def classed (a : Nat) (c : MemClass) (s : State) : State :=
  { s with params := { s.params with regions := ⟨a, 1, c⟩ :: s.params.regions } }

/-- The `continue` policy. -/
def continuing (s : State) : State := { s with params := { s.params with errorPolicy := .proceed } }

/-- A port that the platform implements in neither direction. -/
def withoutPort (p : Byte) (s : State) : State := { s with params := { s.params with io := ⟨[p], [p]⟩ } }

/-- One field of the state after one step. -/
def seen {α : Type} (f : State → α) (s : State) : Option α := (after (step s)).map f

/-- The four flags in the vectors' order, `S Z P CY`. -/
def fl (s z p cy : Nat) : Flags := ⟨s == 1, z == 1, p == 1, cy == 1⟩

/-- The record a list of bytes decodes to. -/
def recordOf (bytes : List Byte) : Option Record :=
  match decode bytes with
  | .ok (r, _) => some r
  | .error _ => none

/-- The one-byte program `NOP` with a record pending in the interrupt controller. -/
def injecting (rec : Record) : State := { prog [0x00] with pending := some rec }

/-- What a record of one byte has beside its mnemonic, and beside `r1`. -/
def f1 : Fields := .bare .none .one
def o1 : Rest1 := .bare .none .one

/-! ## Ill-formed terms are refused (R80) -/

theorem test_wf_no_payload_allowed :
    ([.nop (.bare (.d8 0) .one), .xchg (.bare (.d16 0) .one), .rrc (.bare (.d8 0) .one),
      .ret (.bare (.d16 0) .one), .ei (.bare (.d8 1) .one)] : List Instr).all (fun i => !i.wf) =
        true := by decide
theorem test_wf_superfluous :
    ([.nop ⟨some .a, none, .none, .one⟩, .ei ⟨none, some .b, .none, .one⟩, .jmp ⟨some .b, none, .d16 0, .three⟩,
      .adi ⟨none, some .a, .d8 0, .two⟩,
      .lxi (some .b) ⟨some .b, .d16 0, .three⟩, .ldax (some .b) ⟨some .d, .none, .one⟩,
      .mvi (some .a) ⟨some .a, .d8 0, .two⟩, .push (some .b) ⟨some .b, .none, .one⟩,
      .inx (some .b) ⟨some .b, .none, .one⟩, .inr (some .b) ⟨some .b, .none, .one⟩] : List Instr).all
      (fun i => !i.wf) = true := by decide
theorem test_wf_absent :
    ([.lxi none (.bare (.d16 0) .three), .ldax none o1, .mvi none (.bare (.d8 0) .two), .push none o1,
      .inx none o1, .inr none o1,
      .mov none (some .a) ⟨.none, .one⟩, .mov (some .a) none ⟨.none, .one⟩] : List Instr).all
      (fun i => !i.wf) = true := by decide
theorem test_wf_lxi : Instr.wf (.lxi (some .a) (.bare (.d16 0) .three)) = false ∧
    Instr.wf (.lxi (some .sp) (.bare (.d8 0) .three)) = false := by decide
theorem test_wf_ldax : Instr.wf (.ldax (some .h) o1) = false ∧
    Instr.wf (.ldax (some .b) (.bare (.d8 0) .one)) = false := by decide
theorem test_wf_two_byte_payload_required :
    ([.sta f1, .lda (.bare (.d8 0) .three), .jmp f1, .jz (.bare (.d8 0) .three), .jnz f1,
      .jnc (.bare (.d8 0) .three), .call (.bare (.d8 8) .three)] : List Instr).all (fun i => !i.wf) =
        true := by decide
theorem test_wf_mov :
    ([.mov (some .m) (some .m) ⟨.none, .one⟩, .mov (some .sp) (some .a) ⟨.none, .one⟩,
      .mov (some .a) (some .sp) ⟨.none, .one⟩, .mov (some .a) (some .b) ⟨.d8 0, .one⟩] : List Instr).all
      (fun i => !i.wf) = true := by decide
theorem test_wf_mvi : Instr.wf (.mvi (some .sp) (.bare (.d8 0) .two)) = false ∧
    Instr.wf (.mvi (some .a) o1) = false := by decide
theorem test_wf_stack : Instr.wf (.push (some .sp) o1) = false ∧ Instr.wf (.pop (some .m) o1) = false ∧
    Instr.wf (.push (some .b) (.bare (.d8 0) .one)) = false := by decide
theorem test_wf_pair_step : Instr.wf (.inx (some .a) o1) = false ∧ Instr.wf (.dcx (some .m) o1) = false ∧
    Instr.wf (.dad (some .l) o1) = false ∧ Instr.wf (.inx (some .b) (.bare (.d8 0) .one)) = false := by decide
theorem test_wf_byte_operand :
    ([.inr (some .sp) o1, .dcr (some .sp) o1, .add (some .sp) o1, .sub (some .sp) o1, .ana (some .sp) o1,
      .xra (some .sp) o1, .inr (some .b) (.bare (.d8 0) .one), .add (some .b) (.bare (.d16 0) .one)] :
      List Instr).all (fun i => !i.wf) = true := by decide
theorem test_wf_one_byte_payload_required :
    ([.adi f1, .sui (.bare (.d16 0) .two), .ani f1, .cpi (.bare (.d16 0) .two), .out f1,
      .inp (.bare (.d16 0) .two)] : List Instr).all (fun i => !i.wf) = true := by decide
theorem test_wf_unimpl : Instr.wf (.unimpl ⟨0x00, f1⟩) = false := by decide
theorem test_wf_encode_refuses : encode (.mov (some .m) (some .m) ⟨.none, .one⟩) = none := by decide
theorem test_fetchable_length : Instr.wf (.nop (.bare .none .two)) = true ∧
    Instr.fetchable (.nop (.bare .none .two)) = false := by decide
theorem test_wf_memory : Memory.wf [(2, 1), (1, 1)] = false ∧ Memory.wf [(1, 1), (1, 2)] = false ∧
    Memory.wf [(1, 0)] = false ∧ Memory.wf [(65536, 1)] = false := by decide
theorem test_wf_regions :
    Params.regionsDisjoint ⟨0, [⟨0, 2, .rw⟩, ⟨1, 2, .ro⟩], ⟨[], []⟩, .halt⟩ = false ∧
    Params.regionsDisjoint ⟨0, [⟨65535, 2, .rw⟩], ⟨[], []⟩, .halt⟩ = false := by decide

/-! ## Decoding: one word of every constructor, from the patterns of R71 and the codes of R72, R73 -/

theorem test_decode_nop : recordOf [0b00000000] = some (.nop f1) := by decide
theorem test_decode_lxi : recordOf [0b00_11_0001, 0x00, 0x24] =
  some (.lxi (some .sp) (.bare (.d16 0x2400) .three)) := by decide
theorem test_decode_inx : recordOf [0b00_01_0011] = some (.inx (some .d) o1) := by decide
theorem test_decode_inr : recordOf [0b00_110_100] = some (.inr (some .m) o1) := by decide
theorem test_decode_dcr : recordOf [0b00_111_101] = some (.dcr (some .a) o1) := by decide
theorem test_decode_mvi : recordOf [0b00_110_110, 0xA5] =
  some (.mvi (some .m) (.bare (.d8 0xA5) .two)) := by decide
theorem test_decode_dad : recordOf [0b00_10_1001] = some (.dad (some .h) o1) := by decide
theorem test_decode_ldax : recordOf [0b00_01_1010] = some (.ldax (some .d) o1) := by decide
theorem test_decode_dcx : recordOf [0b00_11_1011] = some (.dcx (some .sp) o1) := by decide
theorem test_decode_rrc : recordOf [0b00001111] = some (.rrc f1) := by decide
theorem test_decode_sta : recordOf [0b00110010, 0x34, 0x12] =
  some (.sta (.bare (.d16 0x1234) .three)) := by decide
theorem test_decode_lda : recordOf [0b00111010, 0x34, 0x12] =
  some (.lda (.bare (.d16 0x1234) .three)) := by decide
theorem test_decode_mov : recordOf [0b01_111_110] = some (.mov (some .a) (some .m) ⟨.none, .one⟩) := by decide
theorem test_decode_add : recordOf [0b10_000_010] = some (.add (some .d) o1) := by decide
theorem test_decode_sub : recordOf [0b10_010_011] = some (.sub (some .e) o1) := by decide
theorem test_decode_ana : recordOf [0b10_100_100] = some (.ana (some .h) o1) := by decide
theorem test_decode_xra : recordOf [0b10_101_101] = some (.xra (some .l) o1) := by decide
theorem test_decode_pop : recordOf [0b11_01_0001] = some (.pop (some .d) o1) := by decide
theorem test_decode_jnz : recordOf [0b11000010, 0x04, 0x00] =
  some (.jnz (.bare (.d16 0x0004) .three)) := by decide
theorem test_decode_jmp : recordOf [0b11000011, 0x34, 0x12] =
  some (.jmp (.bare (.d16 0x1234) .three)) := by decide
theorem test_decode_push : recordOf [0b11_10_0101] = some (.push (some .h) o1) := by decide
theorem test_decode_adi : recordOf [0b11000110, 0x42] = some (.adi (.bare (.d8 0x42) .two)) := by decide
theorem test_decode_ret : recordOf [0b11001001] = some (.ret f1) := by decide
theorem test_decode_jz : recordOf [0b11001010, 0x10, 0x00] =
  some (.jz (.bare (.d16 0x0010) .three)) := by decide
theorem test_decode_call : recordOf [0b11001101, 0x10, 0x00] =
  some (.call (.bare (.d16 0x0010) .three)) := by decide
theorem test_decode_jnc : recordOf [0b11010010, 0x34, 0x12] =
  some (.jnc (.bare (.d16 0x1234) .three)) := by decide
theorem test_decode_out : recordOf [0b11010011, 0x02] = some (.out (.bare (.d8 0x02) .two)) := by decide
theorem test_decode_sui : recordOf [0b11010110, 0x01] = some (.sui (.bare (.d8 0x01) .two)) := by decide
theorem test_decode_inp : recordOf [0b11011011, 0x03] = some (.inp (.bare (.d8 0x03) .two)) := by decide
theorem test_decode_ani : recordOf [0b11100110, 0x0F] = some (.ani (.bare (.d8 0x0F) .two)) := by decide
theorem test_decode_xchg : recordOf [0b11101011] = some (.xchg f1) := by decide
theorem test_decode_ei : recordOf [0b11111011] = some (.ei f1) := by decide
theorem test_decode_cpi : recordOf [0b11111110, 0x40] = some (.cpi (.bare (.d8 0x40) .two)) := by decide
theorem test_decode_unimpl :
    recordOf [0x76] = some (.unimpl ⟨0x76, .bare .none (Config.unimplLen 0x76)⟩) ∧
    recordOf [0x2A, 0, 0] = some (.unimpl ⟨0x2A, .bare .none (Config.unimplLen 0x2A)⟩) := ⟨rfl, rfl⟩
theorem test_decode_truncated : recordOf [0xC3, 0x34] = none ∧ recordOf [0x3E] = none ∧ recordOf [] = none := by
  decide
theorem test_decode_table_word : decodeTableWord 24 0x1234C3 =
  some (.jmp (.bare (.d16 0x1234) .three)) := by decide

/-! ## One step of each instruction (spec/95_test_vectors.md Part 1 and Part 2) -/

theorem test_nop : seen (fun t => (t.pc, t.flags)) (prog [0x00]) = some (1, fl 0 0 0 0) := by decide
theorem test_lxi_b : seen (fun t => (t.b, t.c, t.pc)) (prog [0x01, 0xCD, 0xAB]) = some (0xAB, 0xCD, 3) := by
  decide
theorem test_lxi_sp : seen (fun t => (t.sp, t.pc)) (prog [0x31, 0x00, 0x24]) = some (0x2400, 3) := by decide
theorem test_ldax_b : seen (fun t => (t.a, t.pc))
    (byteAt 0x2005 0x7E { prog [0x0A] with b := 0x20, c := 0x05 }) = some (0x7E, 1) := by decide
theorem test_ldax_d_top : seen State.a
    (byteAt 0xFFFF 0x42 { prog [0x1A] with d := 0xFF, e := 0xFF }) = some 0x42 := by decide
theorem test_sta : seen (fun t => (t.mem.read 0x2400, t.pc)) { prog [0x32, 0x00, 0x24] with a := 0x5A } =
    some (0x5A, 3) := by decide
theorem test_lda_own_opcode : seen State.a (prog [0x3A, 0x00, 0x00]) = some 0x3A := by decide
theorem test_mov_h_m : seen (fun t => (t.h, t.l))
    (byteAt 0x2001 0x30 { prog [0x66] with h := 0x20, l := 0x01 }) = some (0x30, 0x01) := by decide
theorem test_mov_m_h : seen (fun t => t.mem.read 0x2001) { prog [0x74] with h := 0x20, l := 0x01 } =
    some 0x20 := by decide
theorem test_mvi_b : seen (fun t => (t.b, t.pc, t.flags)) (prog [0x06, 0xFF]) =
    some (0xFF, 2, fl 0 0 0 0) := by decide
theorem test_mvi_m_read_only : seen (fun t => (t.mem.read 0x2100, t.pc))
    (classed 0x2100 .ro (byteAt 0x2100 0x77 { prog [0x36, 0xA5] with h := 0x21, l := 0x00 })) =
    some (0x77, 2) := by decide
theorem test_xchg : seen (fun t => (t.d, t.e, t.h, t.l))
    { prog [0xEB] with d := 0x12, e := 0x34, h := 0xAB, l := 0xCD } =
    some (0xAB, 0xCD, 0x12, 0x34) := by decide
theorem test_push_d_wraps : seen (fun t => (t.mem.read 0xFFFF, t.mem.read 0xFFFE, t.sp))
    { prog [0xD5] with d := 0x01, e := 0x02, sp := 0x0000 } = some (0x01, 0x02, 0xFFFE) := by decide
theorem test_push_over_own_opcode : seen (fun t => (t.mem.read 0x0000, t.mem.read 0xFFFF, t.sp))
    { prog [0xE5] with h := 0xAA, l := 0xBB, sp := 0x0001 } = some (0xAA, 0xBB, 0xFFFF) := by decide
theorem test_pop_d : seen (fun t => (t.d, t.e, t.sp))
    (byteAt 0x23FF 0x12 (byteAt 0x23FE 0x34 { prog [0xD1] with sp := 0x23FE })) =
    some (0x12, 0x34, 0x2400) := by decide
theorem test_pop_b_wraps : seen (fun t => (t.b, t.c, t.sp))
    (byteAt 0xFFFF 0x77 { prog [0xC1] with sp := 0xFFFF }) = some (0xC1, 0x77, 0x0001) := by decide

theorem test_inx_h_wraps : seen (fun t => (t.h, t.l, t.flags))
    { prog [0x23] with h := 0xFF, l := 0xFF, flags := fl 0 1 0 1 } = some (0, 0, fl 0 1 0 1) := by decide
theorem test_inx_sp_wraps : seen State.sp { prog [0x33] with sp := 0xFFFF } = some 0 := by decide
theorem test_dcx_h : seen (fun t => (t.h, t.l)) { prog [0x2B] with h := 0x80, l := 0x00 } =
    some (0x7F, 0xFF) := by decide
theorem test_dcx_b_no_flag : seen (fun t => (t.b, t.c, t.flags)) { prog [0x0B] with c := 0x01 } =
    some (0, 0, fl 0 0 0 0) := by decide
theorem test_inr_b_keeps_carry : seen (fun t => (t.b, t.flags))
    { prog [0x04] with b := 0xFF, flags := fl 0 0 0 1 } = some (0x00, fl 0 1 1 1) := by decide
theorem test_inr_m : seen (fun t => (t.mem.read 0x2000, t.flags))
    (byteAt 0x2000 0x15 { prog [0x34] with h := 0x20 }) = some (0x16, fl 0 0 0 0) := by decide
theorem test_dcr_a : seen (fun t => (t.a, t.flags)) (prog [0x3D]) = some (0xFF, fl 1 0 1 0) := by decide
theorem test_dcr_m : seen (fun t => (t.mem.read 0x2000, t.flags)) { prog [0x35] with h := 0x20 } =
    some (0xFF, fl 1 0 1 0) := by decide
theorem test_add_a : seen (fun t => (t.a, t.flags)) { prog [0x87] with a := 0x9A } =
    some (0x34, fl 0 0 0 1) := by decide
theorem test_add_d_ignores_carry : seen (fun t => (t.a, t.flags)) { prog [0x82] with flags := fl 0 0 0 1 } =
    some (0x00, fl 0 1 1 0) := by decide
theorem test_adi : seen (fun t => (t.a, t.flags, t.pc)) { prog [0xC6, 0xFF] with a := 0xFF } =
    some (0xFE, fl 1 0 0 1, 2) := by decide
theorem test_sub_a_clears_carry : seen (fun t => (t.a, t.flags)) { prog [0x97] with flags := fl 0 0 0 1 } =
    some (0x00, fl 0 1 1 0) := by decide
theorem test_sub_c_borrows : seen (fun t => (t.a, t.flags)) { prog [0x91] with c := 0x01 } =
    some (0xFF, fl 1 0 1 1) := by decide
theorem test_sui_zero : seen (fun t => (t.a, t.flags))
    { prog [0xD6, 0x00] with a := 0x01, flags := fl 0 0 0 1 } = some (0x01, fl 0 0 0 0) := by decide
theorem test_sui_borrows : seen (fun t => (t.a, t.flags)) (prog [0xD6, 0xFF]) =
    some (0x01, fl 0 0 0 1) := by decide
theorem test_dad_b : seen (fun t => (t.h, t.l, t.flags))
    { prog [0x09] with h := 0xA1, l := 0x7B, b := 0x33, c := 0x9F } = some (0xD5, 0x1A, fl 0 0 0 0) := by
  decide
theorem test_dad_d_carry : seen (fun t => (t.h, t.l, t.flags))
    { prog [0x19] with h := 0x12, l := 0x34, d := 0xED, e := 0xCC } = some (0, 0, fl 0 0 0 1) := by decide

theorem test_rrc : seen (fun t => (t.a, t.flags)) { prog [0x0F] with a := 0xF2, flags := fl 0 0 0 1 } =
    some (0x79, fl 0 0 0 0) := by decide
theorem test_rrc_bit_zero : seen (fun t => (t.a, t.flags)) { prog [0x0F] with a := 0x01 } =
    some (0x80, fl 0 0 0 1) := by decide
theorem test_ana : seen (fun t => (t.a, t.flags))
    { prog [0xA1] with a := 0xFC, c := 0x0F, flags := fl 0 0 0 1 } = some (0x0C, fl 0 0 1 0) := by decide
theorem test_xra : seen (fun t => (t.a, t.flags)) { prog [0xA8] with a := 0x5C, b := 0x78 } =
    some (0x24, fl 0 0 1 0) := by decide
theorem test_ani : seen (fun t => (t.a, t.flags, t.pc))
    { prog [0xE6, 0x0F] with a := 0x3A, flags := fl 0 0 0 1 } = some (0x0A, fl 0 0 1 0, 2) := by decide
theorem test_cpi_less : seen (fun t => (t.a, t.flags)) { prog [0xFE, 0x80] with a := 0x7F } =
    some (0x7F, fl 1 0 1 1) := by decide
theorem test_cpi_zero : seen (fun t => (t.a, t.flags))
    { prog [0xFE, 0x00] with a := 0x07, flags := fl 0 0 0 1 } = some (0x07, fl 0 0 0 0) := by decide

theorem test_jmp : seen State.pc (prog [0xC3, 0x00, 0x20]) = some 0x2000 := by decide
theorem test_jz : seen State.pc { prog [0xCA, 0x10, 0x00] with flags := fl 0 1 0 0 } = some 0x0010 ∧
    seen State.pc (prog [0xCA, 0x10, 0x00]) = some 0x0003 := by decide
theorem test_jnz : seen State.pc { prog [0xC2, 0x10, 0x00] with flags := fl 0 1 0 0 } = some 0x0003 ∧
    seen State.pc (prog [0xC2, 0x10, 0x00]) = some 0x0010 := by decide
theorem test_jnc_jumps_on_carry :
    seen State.pc { prog [0xD2, 0x34, 0x12] with flags := fl 0 0 0 1 } = some 0x1234 ∧
    seen State.pc (prog [0xD2, 0x34, 0x12]) = some 0x0003 := by decide
theorem test_call_wraps : seen (fun t => (t.mem.read 0xFFFF, t.mem.read 0xFFFE, t.sp, t.pc))
    (prog [0xCD, 0x34, 0x12]) = some (0x00, 0x03, 0xFFFE, 0x1234) := by decide
theorem test_ret_wraps : seen (fun t => (t.pc, t.sp)) (byteAt 0xFFFF 0xCD { prog [0xC9] with sp := 0xFFFF }) =
    some (0xC9CD, 0x0001) := by decide

theorem test_out : seen (fun t => (t.ioTrace, t.a, t.pc)) { prog [0xD3, 0x02] with a := 0x03 } =
    some ([.write 0x02 0x03], 0x03, 2) := by decide
theorem test_out_absent : seen (fun t => (t.ioTrace, t.answer, t.pc))
    (continuing (withoutPort 0x07 (prog [0xD3, 0x07]))) =
    some ([], some (.error (.unsupportedPort 0x07 .write)), 2) := by decide
theorem test_in : seen (fun t => (t.a, t.pc)) { prog [0xDB, 0x01] with inputs := [0x5A] } =
    some (0x5A, 2) := by decide
theorem test_in_absent : seen (fun t => (t.a, t.answer, t.pc))
    (continuing (withoutPort 0x09 { prog [0xDB, 0x09] with a := 0x11 })) =
    some (0x11, some (.error (.unsupportedPort 0x09 .read)), 2) := by decide
theorem test_ei : seen (fun t => (t.inte, t.pc)) { prog [0xFB] with inte := false } =
  some (true, 1) := by decide
theorem test_unimpl_halts : stopOf (step (prog [0x76])) = some (.unimplementedInstruction 0x76) := by decide
theorem test_unimpl_continues : seen State.answer (continuing (prog [0x07])) =
    some (some (.error (.unimplementedInstruction 0x07))) := by decide

/-! ## The control unit (the same file's sections on errors, the interrupt controller and the cycle) -/

theorem test_fetch_unmapped_operand : stopOf (step (classed 1 .unmapped (prog [0xC3, 0, 0]))) =
    some (.addressFault 1) := by decide
theorem test_fetch_unmapped_second_operand : stopOf (step (classed 2 .unmapped (prog [0xC3, 0, 0]))) =
    some (.addressFault 2) := by decide
theorem test_interrupt_then_ordinary : seen (fun t => (t.b, t.inte, t.pending, t.pc))
    { prog [0x00, 0x00] with pending := some (.inr (some .b) o1) } = some (0x01, false, none, 1) := by decide
theorem test_interrupt_waits : seen (fun t => (t.pending, t.pc))
    { injecting (.inr (some .b) o1) with inte := false } = some (some (.inr (some .b) o1), 1) := by decide
theorem test_interrupt_reenters_program : seen (fun t => (t.inte, t.pc))
    { injecting (.jmp (.bare (.d16 0) .three)) with pc := 1 } = some (false, 1) := by decide
theorem test_interrupt_ei : seen State.inte (injecting (.ei f1)) = some true := by decide
theorem test_interrupt_register_not_8_bit : seen (fun t => (t.inte, t.pc, t.answer))
    (continuing (injecting (.inr (some .sp) o1))) =
    some (false, 0, some (.error (.registerNot8Bit (.inr (some .sp) o1)))) := by decide
theorem test_interrupt_bad_payload : stopOf (step (injecting (.call (.bare (.d8 0x08) .two)))) =
    some (.invalidInstructionData (.call (.bare (.d8 0x08) .two))) := by decide
theorem test_interrupt_absent_designator :
    ([.lxi none (.bare (.d16 0) .three), .ldax none o1, .push none o1, .pop none o1, .inx none o1, .dcx none o1,
      .dad none o1] : List Instr).all
      (fun i => stopOf (step (injecting i)) = some (.unsupportedRegister i)) = true := by decide
theorem test_interrupt_superfluous_designator :
    ([.lxi (some .b) ⟨some .b, .d16 0, .three⟩, .ldax (some .b) ⟨some .m, .none, .one⟩,
      .push (some .b) ⟨some .sp, .none, .one⟩, .pop (some .h) ⟨some .a, .none, .one⟩,
      .inx (some .b) ⟨some .d, .none, .one⟩, .dcx (some .b) ⟨some .d, .none, .one⟩,
      .dad (some .b) ⟨some .d, .none, .two⟩] : List Instr).all
      (fun i => stopOf (step (injecting i)) = some (.unsupportedRegister i)) = true := by decide
theorem test_interrupt_designator_ignored :
    seen (fun t => (t.pc, t.answer)) (injecting (.nop ⟨some .sp, some .m, .none, .three⟩)) =
      some (1, some .ok) := by
  decide
theorem test_interrupt_unimpl_any : stopOf (step (injecting (.unimpl ⟨0xFF, ⟨some .a, none, .d16 0, .two⟩⟩))) =
    some (.unimplementedInstruction 0xFF) := by decide
theorem test_generate_overwrites : seen State.pending
    { injecting (.nop f1) with moves := [.generate (.ei f1)] } = some (some (.ei f1)) := by decide
theorem test_empty_program_cycle : seen (fun t => (t.pc, t.answer)) State.reset =
  some (0, some .ok) := by decide
theorem test_run_ends : seen (fun t => (t.moves, t.answer)) { prog [0x00] with pc := 1, moves := [.run] } =
    some ([], some .ended) := by decide
theorem test_with_fetch_word : seen (fun t => (t.h, t.l, t.pc)) (State.reset.withFetchWord 24 0x123421) =
    some (0x12, 0x34, 3) := by decide

/-! ## Witnesses: each statement's hypotheses, met at a concrete state -/

/-- What is seen of a next state is true of one. -/
theorem exists_next {α : Type} {r : Result} {f : State → α} {x : α} (h : (after r).map f = some x) :
    ∃ t, r = .next t ∧ f t = x := by
  cases r <;> simp_all [after]

/-- Reset with one unmapped address and one read-only one. -/
def holed : State := classed 0x1000 .unmapped (classed 0x1001 .ro State.reset)

/-- `holed` with H:L on the unmapped address. -/
def holedHl : State := { holed with h := 0x10 }

theorem witness_UnimplementedBytesAreThoseListed :
    (0x02 : Byte) ∈ unimplementedBytes ∧ (0xFD : Byte) ∈ unimplementedBytes := by decide
theorem witness_DecodeOfEncodeIsIdentity :
    Instr.wf (.lxi (some .sp) (.bare (.d16 0xFFFF) .one)) = true ∧
    (Instr.fetchable (.mov (some .a) (some .a) ⟨.none, .one⟩) = true ∧
      encode (.mov (some .a) (some .a) ⟨.none, .one⟩) = some [0x7F]) ∧
    (Instr.fetchable (.lxi (some .sp) (.bare (.d16 0xFFFF) .three)) = true ∧
      encode (.lxi (some .sp) (.bare (.d16 0xFFFF) .three)) = some [0x31, 0xFF, 0xFF]) ∧
    (Instr.fetchable (.unimpl ⟨0xFF, .bare .none (Config.unimplLen 0xFF)⟩) = true ∧
      encode (.unimpl ⟨0xFF, .bare .none (Config.unimplLen 0xFF)⟩) = some [0xFF]) :=
  ⟨rfl, ⟨rfl, rfl⟩, ⟨rfl, rfl⟩, by simp [Instr.fetchable, Instr.wf, unimplementedBytes, Instr.fields,
    Instr.decodedLen, Fields.noRegs, Payload.isNone], rfl⟩
theorem witness_DecodedRecordIsWellFormedAndReencodes :
    decode [0x31, 0xFF, 0xFF, 0x00] = .ok (.lxi (some .sp) (.bare (.d16 0xFFFF) .three), [0x00]) := by rfl
theorem witness_OperandBytesAreLittleEndian :
    (opcode 0xFE).1 = .f2 ∧ (opcode 0xD2).1 = .f3 ∧ (opcode 0xFB).1 = .f1 := by decide
theorem witness_WrongPayloadRaisesInvalidData :
    (Payload.d8 0).isNone = false ∧ (Payload.d16 0).isNone = false ∧ Payload.none.isD8 = false ∧
    (Payload.d16 0).isD8 = false ∧ Payload.none.isD16 = false ∧ (Payload.d8 0xFF).isD16 = false := by decide
theorem witness_WrongDesignatorRaisesItsError :
    (Option.any Reg.isOperand16 (some .m) = false ∧ Option.any Reg.isOperand16 none = false) ∧
    Option.any Reg.isIndexOperand (some .h) = false ∧ Option.any Reg.isStackOperand (some .sp) = false ∧
    Option.any Reg.isOperand8 (some .sp) = false ∧ some Reg.b ≠ none ∧ (some Reg.m ≠ some .sp) ∧
    (some Reg.m = some .m ∧ some Reg.m = some .m) ∧
    Instr.inr (some .sp) o1 ∈ [Instr.inr (some .sp) o1, .dcr (some .sp) o1, .add (some .sp) o1,
      .sub (some .sp) o1, .ana (some .sp) o1, .xra (some .sp) o1] := by decide
theorem witness_WellFormedInstructionRaisesNoRecordError :
    (Instr.wf (.add (some .m) o1) = true ∧
      stopOf (exec (.add (some .m) o1) holedHl) = some (.addressFault 0x1000)) ∧
    (Instr.wf (.unimpl ⟨0x76, f1⟩) = true ∧
      (after (exec (.unimpl ⟨0x76, f1⟩) (continuing State.reset))).map State.answer =
        some (some (.error (.unimplementedInstruction 0x76))) ∧
      (continuing State.reset).answer ≠ some (.error (.unimplementedInstruction 0x76))) := by decide
theorem witness_PairRead_PairWrite :
    Reg.a ∈ [Reg.a, .c, .e, .l, .m] ∧ Reg.m ∈ [Reg.a, .c, .e, .l, .m] := by decide
theorem witness_StepAndLogicBytes : (0 : Nat) < 8 ∧ 7 < 8 := by decide
theorem witness_RotateRightByte : (0 : Nat) < 7 ∧ 6 < 7 := by decide
theorem witness_MemoryRead : holed.classAt 0xFFFF = .rw ∧ holed.classAt 0x1001 = .ro ∧
    holed.classAt 0x1000 = .unmapped ∧ memRead holed 0xFFFF = .ok 0 ∧ memRead holed (0xFFFF + 1) = .ok 0 := by
  decide
theorem witness_MemoryWrite : (holed.classAt 0xFFFF = .rw ∧ holed.mem.wf = true) ∧
    holed.classAt 0x1001 = .ro ∧ holed.classAt 0x1000 = .unmapped := by decide
theorem witness_PopAfterPushRestores : Reg.isStackOperand .h = true ∧ Reg.isStackOperand .b = true ∧
    State.reset.mem.wf = true ∧ State.reset.classAt (State.reset.sp - 1) = .rw ∧
    State.reset.classAt (State.reset.sp - 2) = .rw := by decide
theorem witness_ReturnAfterCallRestores : State.reset.mem.wf = true ∧
    State.reset.classAt (State.reset.sp - 1) = .rw ∧ State.reset.classAt (State.reset.sp - 2) = .rw := by decide
theorem witness_AccumulatorLoadsAndStore :
    (Reg.d ∈ [Reg.b, .d] ∧ rdRP (.ldax (some .d) o1) .d State.reset = .ok 0 ∧ memRead State.reset 0 = .ok 0) ∧
    (rdRP (.ldax (some .b) o1) .b { holed with b := 0x10 } = .ok 0x1000 ∧
      { holed with b := 0x10 }.classAt 0x1000 = .unmapped) ∧
    memRead holed 0xFFFF = .ok 0 ∧ (holed.mem.wf = true ∧ holed.classAt 0x1001 ≠ .unmapped) ∧
    holed.classAt 0x1000 = .unmapped := by decide
theorem witness_MovAndMviCopy :
    (Reg.isOperand8 .a = true ∧ Reg.isOperand8 .m = true ∧ ¬(Reg.a = .m ∧ Reg.m = .m) ∧
      rd8 (.mov (some .a) (some .m) ⟨.none, .one⟩) .m State.reset = .ok 0 ∧
      wr8 (.mov (some .a) (some .m) ⟨.none, .one⟩) .a 0 State.reset = .ok State.reset) ∧
    ((Reg.m = .m ∨ Reg.a = .m) ∧ holedHl.classAt holedHl.hl = .unmapped) ∧
    wr8 (.mvi (some .m) (.bare (.d8 0) .two)) .m 0 State.reset = .ok State.reset := by decide
theorem witness_PushStoresPair :
    (Reg.isStackOperand .b = true ∧ rdRP (.push (some .b) o1) .b State.reset = .ok 0 ∧
      State.reset.mem.wf = true ∧ State.reset.classAt (State.reset.sp - 1) ≠ .unmapped ∧
      State.reset.classAt (State.reset.sp - 2) ≠ .unmapped) ∧
    { holed with sp := 0x1001 }.classAt (0x1001 - 1) = .unmapped ∧
    ({ holed with sp := 0x1002 }.classAt (0x1002 - 1) ≠ .unmapped ∧
      { holed with sp := 0x1002 }.classAt (0x1002 - 2) = .unmapped) := by decide
theorem witness_PopLoadsPair :
    (memRead { State.reset with sp := 0xFFFF } 0xFFFF = .ok 0 ∧
      memRead { State.reset with sp := 0xFFFF } (0xFFFF + 1) = .ok 0) ∧
    { holed with sp := 0x1000 }.classAt 0x1000 = .unmapped ∧
    ({ holed with sp := 0x0FFF }.classAt 0x0FFF ≠ .unmapped ∧
      { holed with sp := 0x0FFF }.classAt (0x0FFF + 1) = .unmapped) := by decide
theorem witness_PairStepsByOne :
    (rdRP (.inx (some .sp) o1) .sp { State.reset with sp := 0xFFFF } = .ok 0xFFFF ∧
      wrRP (.inx (some .sp) o1) .sp (0xFFFF + 1) { State.reset with sp := 0xFFFF } = .ok State.reset) ∧
    (rdRP (.dcx (some .sp) o1) .sp State.reset = .ok 0 ∧
      wrRP (.dcx (some .sp) o1) .sp (0 - 1) State.reset = .ok { State.reset with sp := 0xFFFF }) := by decide
theorem witness_ByteStepsByOne :
    (rd8 (.inr (some .m) o1) .m State.reset = .ok 0 ∧
      wr8 (.inr (some .m) o1) .m (0 + 1) State.reset = .ok (byteAt 0 1 State.reset)) ∧
    (rd8 (.dcr (some .b) o1) .b State.reset = .ok 0 ∧
      wr8 (.dcr (some .b) o1) .b (0 - 1) State.reset = .ok { State.reset with b := 0xFF }) ∧
    holedHl.classAt holedHl.hl = .unmapped := by decide
theorem witness_AdditionIntoAccumulator : rd8 (.add (some .m) o1) .m State.reset = .ok 0 ∧
    holedHl.classAt holedHl.hl = .unmapped := by decide
theorem witness_SubtractionFromAccumulator : rd8 (.sub (some .a) o1) .a State.reset = .ok 0 ∧
    holedHl.classAt holedHl.hl = .unmapped := by decide
theorem witness_DadAddsPairs :
    rdRP (.dad (some .sp) o1) .sp { State.reset with sp := 0xFFFF } = .ok 0xFFFF := by decide
theorem witness_LogicIntoAccumulator : rd8 (.ana (some .m) o1) .m State.reset = .ok 0 ∧
    rd8 (.xra (some .a) o1) .a State.reset = .ok 0 ∧ holedHl.classAt holedHl.hl = .unmapped := by decide
theorem witness_JumpsAndTheirConditions : { State.reset with flags := fl 0 1 0 1 }.flags.z = true ∧
    { State.reset with flags := fl 0 1 0 1 }.flags.cy = true ∧ State.reset.flags.z = false ∧
    State.reset.flags.cy = false := by decide
theorem witness_CallPushesAndJumps :
    (State.reset.mem.wf = true ∧ State.reset.classAt (State.reset.sp - 1) ≠ .unmapped ∧
      State.reset.classAt (State.reset.sp - 2) ≠ .unmapped) ∧
    { holed with sp := 0x1001 }.classAt (0x1001 - 1) = .unmapped ∧
    ({ holed with sp := 0x1002 }.classAt (0x1002 - 1) ≠ .unmapped ∧
      { holed with sp := 0x1002 }.classAt (0x1002 - 2) = .unmapped) := by decide
theorem witness_RetPopsPc :
    (memRead { State.reset with sp := 0xFFFF } 0xFFFF = .ok 0 ∧
      memRead { State.reset with sp := 0xFFFF } (0xFFFF + 1) = .ok 0) ∧
    { holed with sp := 0x1000 }.classAt 0x1000 = .unmapped ∧
    ({ holed with sp := 0x0FFF }.classAt 0x0FFF ≠ .unmapped ∧
      { holed with sp := 0x0FFF }.classAt (0x0FFF + 1) = .unmapped) := by decide
theorem witness_PortAccesses :
    (0xFF : Byte) ∉ State.reset.params.io.absentWrites ∧ (0 : Byte) ∉ State.reset.params.io.absentReads ∧
    (7 : Byte) ∈ (withoutPort 7 State.reset).params.io.absentWrites ∧
    (7 : Byte) ∈ (withoutPort 7 State.reset).params.io.absentReads ∧
    { State.reset with inputs := [1] }.inputs = 1 :: [] := by decide
theorem witness_UnimplementedInstructionAndErrorPolicy :
    State.reset.params.errorPolicy = .halt ∧ (continuing State.reset).params.errorPolicy = .proceed ∧
    (∃ a, Fault.addressFault 0 = .addressFault a) ∧
    ∀ a, Fault.unimplementedInstruction 0x76 ≠ .addressFault a :=
  ⟨rfl, rfl, ⟨0, rfl⟩, nofun⟩
/-- The frame statements: a storing instruction that completes, and clauses of each kind about it. -/
theorem witness_Frames :
    (∃ t, exec (.mvi (some .m) (.bare (.d8 1) .two)) State.reset = .next t) ∧
      writesReg (.mvi (some .m) (.bare (.d8 1) .two)) .a = false ∧
    writesSZP (.mvi (some .m) (.bare (.d8 1) .two)) = false ∧
      writesCY (.mvi (some .m) (.bare (.d8 1) .two)) = false ∧
    (1 : Word) ∉ storeAddrs (.mvi (some .m) (.bare (.d8 1) .two)) State.reset ∧ holed.classAt 0x1001 ≠ .rw ∧
    writesSp (.mvi (some .m) (.bare (.d8 1) .two)) = false ∧
      writesPc (.mvi (some .m) (.bare (.d8 1) .two)) = false ∧
    (∀ f, Instr.mvi (some .m) (.bare (.d8 1) .two) ≠ .ei f) ∧
    ∀ f, Instr.mvi (some .m) (.bare (.d8 1) .two) ≠ .inp f ∧
      Instr.mvi (some .m) (.bare (.d8 1) .two) ≠ .out f :=
  ⟨⟨_, rfl⟩, by decide, by decide, by decide, by decide, by decide, by decide, by decide, nofun,
    fun _ => ⟨nofun, nofun⟩⟩
/-- A jump whose bytes wrap past the top of memory. -/
def wrapped : State :=
  byteAt 0xFFFF 0xC3 (byteAt 0 0x34 (byteAt 1 0x12
    { prog [] with pc := 0xFFFF, params := { State.reset.params with progLen := 65536 } }))

theorem test_fetch_wraps : seen State.pc wrapped = some 0x1234 := by decide
theorem witness_StepRunsDecodedInstruction :
    Instr.fetchable (.jmp (.bare (.d16 0x1234) .three)) = true ∧
    encode (.jmp (.bare (.d16 0x1234) .three)) = some [0xC3, 0x34, 0x12] ∧
    BytesAt wrapped wrapped.pc [0xC3, 0x34, 0x12] ∧
    wrapped.pc.toNat < wrapped.params.progLen ∧ (wrapped.inte = false ∨ wrapped.pending = none) ∧
    wrapped.CycleNext ∧ { wrapped with moves := [.cycle] }.CycleNext ∧
    ∀ u, Instr.jmp (.bare (.d16 0x1234) .three) ≠ .unimpl u := by
  refine ⟨by decide, by decide, ?_, by decide, by decide, .inl rfl, .inr ⟨[], rfl⟩, nofun⟩
  unfold BytesAt
  decide
theorem witness_CycleServesPendingInterruptFirst :
    (injecting (.inr (some .b) o1)).inte = true ∧
    (injecting (.inr (some .b) o1)).pending = some (.inr (some .b) o1) ∧
      (injecting (.inr (some .b) o1)).CycleNext ∧
    (∃ t, exec (.inr (some .b) o1)
        { injecting (.inr (some .b) o1) with answer := some .ok, pending := none, inte := false } = .next t ∧
      t.answer = some .ok ∧ t.pc.toNat < t.params.progLen ∧
      Instr.fetchable (.nop f1) = true ∧ encode (.nop f1) = some [0x00] ∧ BytesAt t t.pc [0x00]) ∧
    (∃ t, exec (.inr (some .b) o1)
        { injecting (.inr (some .b) o1) with answer := some .ok, pending := none, inte := false, pc := 1 } =
          .next t ∧
      t.answer = some .ok ∧ t.params.progLen ≤ t.pc.toNat) ∧
    (injecting (.unimpl ⟨0xFF, f1⟩)).inte = true ∧
    (injecting (.unimpl ⟨0xFF, f1⟩)).pending = some (.unimpl ⟨0xFF, f1⟩) ∧
    (∃ t, exec (.unimpl ⟨0xFF, f1⟩)
        { continuing (injecting (.unimpl ⟨0xFF, f1⟩)) with
          answer := some .ok, pending := none, inte := false } = .next t ∧
      t.answer = some (.error (.unimplementedInstruction 0xFF))) ∧
    exec (.unimpl ⟨0xFF, f1⟩)
        { injecting (.unimpl ⟨0xFF, f1⟩) with answer := some .ok, pending := none, inte := false } =
      .fault (.unimplementedInstruction 0xFF) := by
  refine ⟨rfl, rfl, .inl rfl, ⟨_, rfl, rfl, by decide, rfl, rfl, ?_⟩, ⟨_, rfl, rfl, by decide⟩, rfl, rfl,
    ⟨_, rfl, rfl⟩, rfl⟩
  unfold BytesAt
  decide
theorem witness_InterruptsWaitAndAreNeverDisabledByPrograms :
    (prog [0x00]).CycleNext ∧ (∃ t, step (prog [0x00]) = .next t) ∧
    (prog [0x00]).inte = true ∧ (prog [0x00]).pending = none ∧
    (∃ t, step { prog [0x00] with inte := false } = .next t) ∧
    ∃ t, step (injecting (.nop f1)) = .next t :=
  ⟨.inl rfl, ⟨_, rfl⟩, rfl, rfl, ⟨_, rfl⟩, ⟨_, rfl⟩⟩
theorem witness_PlatformMovesBetweenCycles :
    { State.reset with moves := [.generate (.ei f1)] }.moves = .generate (.ei f1) :: [] ∧
    ({ State.reset with moves := [.poke 0xFFFF 1] }.moves = .poke 0xFFFF 1 :: [] ∧
      { State.reset with moves := [.poke 0xFFFF 1] }.mem.wf = true) ∧
    { State.reset with moves := [.reset] }.moves = .reset :: [] := ⟨rfl, ⟨rfl, rfl⟩, rfl⟩
/-- A run of a program. -/
def running (bytes : List Byte) : State := { prog bytes with moves := [.run] }

theorem test_running_cycle : (after (cycle (running [0x00]))).map State.answer = some (some .ok) := by decide
theorem test_running_cycle_fails : (after (cycle (continuing (running [0x76])))).map State.answer =
    some (some (.error (.unimplementedInstruction 0x76))) := by decide
theorem witness_RunEndsAtProgramEnd :
    (running [0x00]).moves = .run :: [] ∧
    { running [0x00] with pc := 1 }.params.progLen ≤ { running [0x00] with pc := 1 }.pc.toNat ∧
    (running [0x00]).pc.toNat < (running [0x00]).params.progLen ∧
    (∃ t, cycle (running [0x00]) = .next t ∧ t.answer = some .ok) ∧
    (∃ t, cycle (continuing (running [0x76])) = .next t ∧
      t.answer = some (.error (.unimplementedInstruction 0x76))) ∧
    stopOf (cycle (running [0x76])) = some (.unimplementedInstruction 0x76) :=
  ⟨rfl, by decide, by decide, exists_next test_running_cycle, exists_next test_running_cycle_fails, by decide⟩
theorem witness_CycleOutsideProgramOrMemory :
    (State.reset.CycleNext ∧ (State.reset.inte = false ∨ State.reset.pending = none) ∧
      State.reset.params.progLen ≤ State.reset.pc.toNat) ∧
    ((prog [0x00]).CycleNext ∧ (prog [0x00]).pc.toNat < (prog [0x00]).params.progLen ∧
      (classed 0 .unmapped (prog [0x00])).classAt 0 = .unmapped) ∧
    (memRead (classed 1 .unmapped (prog [0x3E, 0])) 0 = .ok 0x3E ∧ (opcode 0x3E).1 = .f2 ∧
      (classed 1 .unmapped (prog [0x3E, 0])).classAt (0 + 1) = .unmapped) ∧
    (memRead (classed 1 .unmapped (prog [0xC3, 0, 0])) 0 = .ok 0xC3 ∧ (opcode 0xC3).1 = .f3 ∧
      (classed 1 .unmapped (prog [0xC3, 0, 0])).classAt (0 + 1) = .unmapped) ∧
    (memRead (classed 2 .unmapped (prog [0xC3, 0, 0])) 0 = .ok 0xC3 ∧
      (classed 2 .unmapped (prog [0xC3, 0, 0])).classAt (0 + 1) ≠ .unmapped ∧
      (classed 2 .unmapped (prog [0xC3, 0, 0])).classAt (0 + 2) = .unmapped) :=
  ⟨⟨.inl rfl, by decide, by decide⟩, ⟨.inl rfl, by decide, by decide⟩, by decide, by decide, by decide⟩
theorem witness_FailedInstructionIsSkippedOrLost :
    ((prog [0x76]).CycleNext ∧ (0x76 : Byte) ∈ unimplementedBytes ∧
      ((prog [0x76]).inte = false ∨ (prog [0x76]).pending = none) ∧
      (prog [0x76]).pc.toNat < (prog [0x76]).params.progLen ∧
      memRead (prog [0x76]) (prog [0x76]).pc = .ok 0x76 ∧ (prog [0x76]).params.errorPolicy = .halt) ∧
    (continuing (prog [0x76])).params.errorPolicy = .proceed ∧
    (injecting (.unimpl ⟨0xFF, f1⟩)).CycleNext ∧ (injecting (.unimpl ⟨0xFF, f1⟩)).inte = true ∧
    (injecting (.unimpl ⟨0xFF, f1⟩)).pending = some (.unimpl ⟨0xFF, f1⟩) :=
  ⟨⟨.inl rfl, by decide, by decide, by decide, by decide, by decide⟩, by decide, .inl rfl, by decide, by decide⟩
theorem witness_LoadedProgramIsReadable : State.reset.Inv ∧ (0 : Nat) < [(0x76 : Byte)].length ∧
    [(0x76 : Byte)].length ≤ 1 := by
  refine ⟨rfl, by decide, by decide⟩
theorem witness_StepKeepsMemoryCanonical : (prog [0x34]).Inv ∧ ∃ t, step (prog [0x34]) = .next t :=
  ⟨rfl, ⟨_, rfl⟩⟩
theorem witness_StepKeepsParametersAndUnwritableMemory :
    (∃ t, step (classed 0 .ro (prog [0x34])) = .next t) ∧
    (∀ a v rest, (classed 0 .ro (prog [0x34])).moves ≠ .poke a v :: rest) ∧
    (classed 0 .ro (prog [0x34])).classAt 0 ≠ .rw := ⟨⟨_, rfl⟩, nofun, by decide⟩
/-- The machine of the last witness: fully mapped, continuing, a program that fails and goes on. -/
def mapped : State := continuing (prog [0x76])

theorem witness_FullyMappedMachineNeverStopsUnderContinue :
    mapped.FullyMapped ∧ mapped.params.errorPolicy = .proceed ∧
    (∃ t, step mapped = .next t ∧ Reaches mapped t) := by
  refine ⟨fun a => ?_, rfl, _, rfl, .tail .refl rfl⟩
  have h : mapped.classAt a = .rw := by
    have : a.toNat < 65536 := a.isLt
    simp [State.classAt, mapped, continuing, prog, State.loadProgram, State.reset, classOf, this]
  rw [h]; decide
theorem witness_SignAndParityInfluenceNothing :
    (∃ t, step (prog [0x04]) = .next t) ∧ ∃ e, step (prog [0x76]) = .fault e := ⟨⟨_, rfl⟩, ⟨_, rfl⟩⟩

end Sys2Proof.Tests
end

section
/-! The sign and parity flags (spec/10_state.md R17): a run of the model commutes with changing them. -/

namespace Sys2Proof.Machine

variable {s : State} {x y : Bool}

/-- The state with `S` and `P` replaced. -/
def State.withSP (s : State) (x y : Bool) : State := s.setFlags { s.flags with s := x, p := y }

/-- `t'` differs from `t` at most in `S` and `P`. -/
def SameButSP (t t' : State) : Prop := ∃ x y, t' = t.withSP x y

/-- Two outcomes that stop alike, or whose next states differ at most in `S` and `P`. -/
inductive Alike : Result → Result → Prop where
  | next {t t' : State} (h : SameButSP t t') : Alike (.next t) (.next t')
  | fault (e : Fault) : Alike (.fault e) (.fault e)
  | refused (r : Refusal) : Alike (.refused r) (.refused r)

theorem Alike.of_next {t : State} {r : Result} (h : Alike (.next t) r) :
    ∃ x y, r = .next (t.withSP x y) := by
  obtain ⟨x, y, rfl⟩ | _ | _ := h
  exact ⟨x, y, rfl⟩

theorem Alike.of_fault {e : Fault} {r : Result} (h : Alike (.fault e) r) : r = .fault e := by
  cases h; rfl

/-- A test the two states share. -/
theorem Alike.ite {c : Prop} [Decidable c] {q q' r r' : Result} (hq : Alike q q') (hr : Alike r r') :
    Alike (if c then q else r) (if c then q' else r') := by
  split
  · exact hq
  · exact hr

/-! ## The shared operations commute with the change

The reads (`memRead`, `rd8`, `rdRP`, `fetchAt`) do not mention the flags, so that they agree in the two states
by definition. -/

@[simp] theorem State.withSP_sp (s : State) (x y : Bool) : (s.withSP x y).sp = s.sp := rfl
@[simp] theorem State.withSP_params (s : State) (x y : Bool) : (s.withSP x y).params = s.params := rfl
@[simp] theorem State.withSP_classAt (s : State) (x y : Bool) (a : Word) :
    (s.withSP x y).classAt a = s.classAt a := rfl
@[simp] theorem State.withSP_moves (s : State) (x y : Bool) : (s.withSP x y).moves = s.moves := rfl
@[simp] theorem State.withSP_setAnswer (s : State) (x y : Bool) (a : Option Answer) :
    (s.withSP x y).setAnswer a = (s.setAnswer a).withSP x y := rfl
@[simp] theorem State.withSP_setMoves (s : State) (x y : Bool) (m : List PlatformMove) :
    (s.withSP x y).setMoves m = (s.setMoves m).withSP x y := rfl
@[simp] theorem State.withSP_failed (s : State) (x y : Bool) : (s.withSP x y).failed = s.failed := rfl

theorem memWrite_withSP (s : State) (x y : Bool) (a : Word) (v : Byte) :
    memWrite (s.withSP x y) a v = (memWrite s a v).map (State.withSP · x y) := by
  unfold memWrite
  rw [State.withSP_classAt]
  cases s.classAt a <;> rfl

theorem wr8_withSP (i : Instr) (r : Reg) (v : Byte) (s : State) (x y : Bool) :
    wr8 i r v (s.withSP x y) = (wr8 i r v s).map (State.withSP · x y) := by
  cases r
  case m => exact memWrite_withSP s x y s.hl v
  all_goals rfl

theorem wrRP_withSP (i : Instr) (r : Reg) (w : Word) (s : State) (x y : Bool) :
    wrRP i r w (s.withSP x y) = (wrRP i r w s).map (State.withSP · x y) := by
  cases r <;> rfl

theorem push16_withSP (s : State) (x y : Bool) (w : Word) :
    push16 (s.withSP x y) w = (push16 s w).map (State.withSP · x y) := by
  unfold push16
  rw [State.withSP_sp, memWrite_withSP]
  cases memWrite s (s.sp - 1) (hiByte w) with
  | error e => rfl
  | ok u =>
    simp only [Except.map]
    rw [memWrite_withSP]
    cases memWrite u (s.sp - 2) (loByte w) <;> rfl

theorem pop16_withSP (s : State) (x y : Bool) :
    pop16 (s.withSP x y) = (pop16 s).map fun p => (p.1, p.2.withSP x y) := by
  unfold pop16
  change (match memRead16 s s.sp with | .error e => _ | .ok _ => _) = _
  cases memRead16 s s.sp <;> rfl

theorem ioRead_withSP (s : State) (x y : Bool) (port : Byte) :
    ioRead (s.withSP x y) port = (ioRead s port).map fun p => (p.1, p.2.withSP x y) := by
  unfold ioRead
  rw [State.withSP_params]
  split <;> rfl

theorem ioWrite_withSP (s : State) (x y : Bool) (port v : Byte) :
    ioWrite (s.withSP x y) port v = (ioWrite s port v).map (State.withSP · x y) := by
  unfold ioWrite
  rw [State.withSP_params]
  split <;> rfl

theorem takeInterrupt_withSP (s : State) (x y : Bool) :
    takeInterrupt (s.withSP x y) = (takeInterrupt s).map fun p => (p.1, p.2.withSP x y) := by
  unfold takeInterrupt consume
  change (if s.inte then (match s.pending with | some rec => _ | none => _) else _) = _
  cases s.inte <;> cases s.pending <;> rfl

/-! ## `orRaise` keeps outcomes alike -/

theorem Alike.raise (e : Fault) : Alike (raiseError e s) (raiseError e (s.withSP x y)) := by
  unfold raiseError
  rw [State.withSP_params]
  split
  · exact .fault e
  · cases s.params.errorPolicy with
    | halt => exact .fault e
    | proceed => exact .next ⟨_, _, rfl⟩

/-- A check or a read: the same in both states. -/
theorem Alike.orRaise {α : Type} {m : Except Fault α} {k k' : α → Result}
    (hk : ∀ v, Alike (k v) (k' v)) : Alike (orRaise m s k) (orRaise m (s.withSP x y) k') := by
  cases m with
  | ok v => exact hk v
  | error e => exact .raise e

/-- A write: its result in the second state is that in the first, with `f` applied. -/
theorem Alike.orRaise_map {α : Type} {f : α → α} {m m' : Except Fault α} {k k' : α → Result}
    (hm : m' = m.map f) (hk : ∀ v, Alike (k v) (k' (f v))) :
    Alike (Machine.orRaise m s k) (Machine.orRaise m' (s.withSP x y) k') := by
  subst hm
  cases m with
  | ok v => exact hk v
  | error e => exact .raise e

/-! ## Every instruction -/

/-- A conditional jump on a condition the two states share. -/
theorem sameButSP_condJump (c : Bool) (addr : Word) :
    SameButSP (if c then s.setPc addr else s)
        (if c then (s.withSP x y).setPc addr else s.withSP x y) ∧
      SameButSP (if c then s else s.setPc addr)
        (if c then s.withSP x y else (s.withSP x y).setPc addr) := by
  cases c <;> exact ⟨⟨_, _, rfl⟩, _, _, rfl⟩

/-- No instruction lets `S` or `P` reach anything else. -/
theorem exec_alike (i : Instr) (s : State) (x y : Bool) : Alike (exec i s) (exec i (s.withSP x y)) := by
  cases i with
  | nop => exact .orRaise fun _ => .next ⟨_, _, rfl⟩
  | lxi =>
    exact .orRaise fun _ => .orRaise fun _ => .orRaise_map (wrRP_withSP ..) fun _ => .next ⟨_, _, rfl⟩
  | inx | dcx =>
    exact .orRaise fun _ => .orRaise fun _ => .orRaise fun _ =>
      .orRaise_map (wrRP_withSP ..) fun _ => .next ⟨_, _, rfl⟩
  | inr | dcr | mov =>
    exact .orRaise fun _ => .orRaise fun _ => .orRaise fun _ =>
      .orRaise_map (wr8_withSP ..) fun _ => .next ⟨_, _, rfl⟩
  | mvi =>
    exact .orRaise fun _ => .orRaise fun _ => .orRaise_map (wr8_withSP ..) fun _ => .next ⟨_, _, rfl⟩
  | ldax =>
    exact .orRaise fun _ => .orRaise fun _ => .orRaise fun _ => .orRaise fun _ => .next ⟨_, _, rfl⟩
  | dad | lda | add | sub | ana | xra =>
    exact .orRaise fun _ => .orRaise fun _ => .orRaise fun _ => .next ⟨_, _, rfl⟩
  | adi | sui | ani | cpi | jmp => exact .orRaise fun _ => .orRaise fun _ => .next ⟨_, _, rfl⟩
  | rrc | xchg | ei => exact .orRaise fun _ => .next ⟨_, _, rfl⟩
  | sta =>
    exact .orRaise fun _ => .orRaise fun _ => .orRaise_map (memWrite_withSP ..) fun _ => .next ⟨_, _, rfl⟩
  | push =>
    exact .orRaise fun _ => .orRaise fun _ => .orRaise fun _ =>
      .orRaise_map (push16_withSP ..) fun _ => .next ⟨_, _, rfl⟩
  | pop =>
    exact .orRaise fun _ => .orRaise fun _ => .orRaise_map (pop16_withSP ..) fun _ =>
      .orRaise_map (wrRP_withSP ..) fun _ => .next ⟨_, _, rfl⟩
  | jz | jnc => exact .orRaise fun addr => .orRaise fun _ => .next (sameButSP_condJump _ addr).1
  | jnz => exact .orRaise fun addr => .orRaise fun _ => .next (sameButSP_condJump _ addr).2
  | call =>
    exact .orRaise fun _ => .orRaise fun _ => .orRaise_map (push16_withSP ..) fun _ => .next ⟨_, _, rfl⟩
  | ret => exact .orRaise fun _ => .orRaise_map (pop16_withSP ..) fun _ => .next ⟨_, _, rfl⟩
  | out =>
    exact .orRaise fun _ => .orRaise fun _ => .orRaise_map (ioWrite_withSP ..) fun _ => .next ⟨_, _, rfl⟩
  | inp =>
    exact .orRaise fun _ => .orRaise fun _ => .orRaise_map (ioRead_withSP ..) fun _ => .next ⟨_, _, rfl⟩
  | unimpl u => exact .raise (.unimplementedInstruction u.byte)

/-! ## The control unit -/

theorem ordinary_alike (s : State) (x y : Bool) : Alike (ordinary s) (ordinary (s.withSP x y)) := by
  unfold ordinary
  exact .ite (.orRaise fun rec => exec_alike rec (enter rec false s) x y) (.next ⟨x, y, rfl⟩)

theorem cycle_alike (s : State) (x y : Bool) : Alike (cycle s) (cycle (s.withSP x y)) := by
  unfold cycle
  rw [State.withSP_setAnswer, takeInterrupt_withSP]
  cases takeInterrupt (s.setAnswer (some .ok)) with
  | none => exact ordinary_alike _ x y
  | some p =>
    have hx : Alike (execRecord p.1 true p.2) (execRecord p.1 true (p.2.withSP x y)) :=
      exec_alike p.1 (enter p.1 true p.2) x y
    simp only [Option.map]
    generalize execRecord p.1 true p.2 = r, execRecord p.1 true (p.2.withSP x y) = r' at hx
    cases hx with
    | @next u _ h =>
      obtain ⟨x', y', rfl⟩ := h
      exact .ite (.next ⟨x', y', rfl⟩) (ordinary_alike u x' y')
    | fault e => exact .fault e
    | refused r => exact .refused r

theorem runTurn_alike (rest : List PlatformMove) (s : State) (x y : Bool) :
    Alike (runTurn rest s) (runTurn rest (s.withSP x y)) := by
  have hc := cycle_alike s x y
  unfold runTurn
  refine .ite ?_ (.next ⟨x, y, rfl⟩)
  generalize cycle s = r, cycle (s.withSP x y) = r' at hc
  cases hc with
  | @next u _ h =>
    obtain ⟨x', y', rfl⟩ := h
    refine .next ⟨x', y', ?_⟩
    rw [State.withSP_failed]
    split <;> rfl
  | fault e => exact .fault e
  | refused r => exact .refused r

theorem step_alike (s : State) (x y : Bool) : Alike (step s) (step (s.withSP x y)) := by
  unfold step platformStep
  rw [State.withSP_moves]
  rcases s.moves with _ | ⟨_ | _ | rec | ⟨a, v⟩ | _, rest⟩
  · exact cycle_alike s x y
  · exact cycle_alike (s.setMoves rest) x y
  · exact runTurn_alike rest s x y
  all_goals exact .next ⟨_, _, rfl⟩

/-- Settles O59: a step from states that differ in `S` and `P` is a step of `Alike` outcomes. -/
theorem signAndParityInfluenceNothing : Obligations.SignAndParityInfluenceNothing := by
  unfold Obligations.SignAndParityInfluenceNothing
  intro s x y
  have h : Alike (step s) (step (s.withSP x y)) := step_alike s x y
  exact ⟨fun t ht => (ht ▸ h).of_next, fun e he => (he ▸ h).of_fault⟩

end Sys2Proof.Machine
end

section
/-! What step 4 writes (spec/10_state.md R13, R14, R18, R21, R31): one inversion lemma, `exec_writes`, and
from it the frames of the registers, of `SP` and `PC`, and of the control state. -/

namespace Sys2Proof.Machine

variable {s t : State} {i : Instr}

/-! ## The accessors' frames -/

/-- `Rd8` of a byte register does not see memory. -/
theorem rd8_setMem {j : Instr} {q : Reg} (hm : q ≠ .m) (m : Memory) :
    rd8 j q (s.setMem m) = rd8 j q s := by
  cases q
  case m => exact absurd rfl hm
  all_goals rfl

/-- `Rd8` of a byte register does not see a write of another byte register or of memory. -/
theorem rd8_wr8_other {j : Instr} {q r : Reg} {v : Byte} (h : wr8 i r v s = .ok t) (hm : q ≠ .m)
    (hr : q ≠ r) : rd8 j q t = rd8 j q s := by
  cases r
  case m => rw [memWrite_frame h]; exact rd8_setMem hm _
  case sp => cases h
  all_goals cases h; cases q <;> simp_all [rd8]

/-- `Rd8` of a byte register does not see a write of a pair that does not hold it, or of `SP`. -/
theorem rd8_wrRP_other {j : Instr} {q rp : Reg} {w : Word} (h : wrRP i rp w s = .ok t) (hm : q ≠ .m)
    (hr : pairHolds rp q = false) : rd8 j q t = rd8 j q s := by
  rcases wrRP_ok h with ⟨rfl, rfl⟩ | ⟨rfl, rfl⟩ | ⟨rfl, rfl⟩ | ⟨rfl, rfl⟩ <;>
    cases q <;> simp_all [rd8, pairHolds]

/-- Two states that agree on what only branches, `EI`, `IN` and `OUT` write. -/
structure SameControl (s t : State) : Prop where
  pc      : t.pc = s.pc
  inte    : t.inte = s.inte
  inputs  : t.inputs = s.inputs
  ioTrace : t.ioTrace = s.ioTrace

theorem wr8_frame {r : Reg} {v : Byte} (h : wr8 i r v s = .ok t) : t.sp = s.sp ∧ SameControl s t := by
  rcases wr8_ok h with rfl | rfl | rfl | rfl | rfl | rfl | rfl | ⟨-, h⟩
  case inr.inr.inr.inr.inr.inr.inr => rw [memWrite_frame h]; exact ⟨rfl, rfl, rfl, rfl, rfl⟩
  all_goals exact ⟨rfl, rfl, rfl, rfl, rfl⟩

theorem wrRP_frame {rp : Reg} {w : Word} (h : wrRP i rp w s = .ok t) :
    (rp ≠ .sp → t.sp = s.sp) ∧ SameControl s t := by
  rcases wrRP_ok h with ⟨-, rfl⟩ | ⟨-, rfl⟩ | ⟨-, rfl⟩ | ⟨rfl, rfl⟩
  case inr.inr.inr => exact ⟨fun hsp => absurd rfl hsp, rfl, rfl, rfl, rfl⟩
  all_goals exact ⟨fun _ => rfl, rfl, rfl, rfl, rfl⟩

/-! ## What an instruction writes, and what the tables say of it -/

/-- The states an instruction can leave `s` in, by what it writes. Each constructor carries what the spec's
tables (`writesReg`, `writesSp`, `writesPc`) say of an instruction that does this. -/
inductive ExecWrites (i : Instr) (s : State) : State → Prop where
  /-- a failed check or access: the answer alone -/
  | error (e : Fault) : ExecWrites i s (s.setAnswer (some (.error e)))
  /-- nothing, or the flags alone -/
  | flags (f : Flags) : ExecWrites i s (s.setFlags f)
  /-- a byte register or `M`, and the flags -/
  | byte {r : Reg} {v : Byte} {u : State} (f : Flags) (hw : writesReg i r = true)
      (hu : wr8 i r v s = .ok u) : ExecWrites i s (u.setFlags f)
  /-- a pair or `SP`, and the flags -/
  | pair {rp : Reg} {w : Word} {u : State} (f : Flags)
      (hw : ∀ q, pairHolds rp q = true → writesReg i q = true) (hs : rp = .sp → writesSp i = true)
      (hu : wrRP i rp w s = .ok u) : ExecWrites i s (u.setFlags f)
  /-- `XCHG`: two pairs -/
  | exchange (v w : Word) (hw : ∀ q, (pairHolds .h q || pairHolds .d q) = true → writesReg i q = true) :
      ExecWrites i s ((s.setHl v).setDe w)
  /-- `POP`: a pair, `SP` having been moved -/
  | pop {rp : Reg} {v w : Word} {u : State} (hw : ∀ q, pairHolds rp q = true → writesReg i q = true)
      (hs : writesSp i = true) (hu : wrRP i rp w (s.setSp v) = .ok u) : ExecWrites i s u
  /-- `STA`: memory alone -/
  | store (m : Memory) : ExecWrites i s (s.setMem m)
  /-- `PUSH`: memory and `SP` -/
  | push (m : Memory) (v : Word) (hs : writesSp i = true) : ExecWrites i s ((s.setMem m).setSp v)
  /-- a jump that is taken -/
  | jump (addr : Word) (hp : writesPc i = true) : ExecWrites i s (s.setPc addr)
  /-- `CALL` and `RET`: memory, `SP` and `PC` -/
  | subroutine (m : Memory) (v addr : Word) (hs : writesSp i = true) (hp : writesPc i = true) :
      ExecWrites i s (((s.setMem m).setSp v).setPc addr)
  /-- `IN`: the devices' side, and `A` -/
  | input {f : Fields} (xs : List Byte) (tr : List IoAccess) (v : Byte) (hi : i = .inp f)
      (hw : writesReg i .a = true) : ExecWrites i s (((s.setInputs xs).setIoTrace tr).setA v)
  /-- `OUT`: the devices' side -/
  | output {f : Fields} (tr : List IoAccess) (hi : i = .out f) : ExecWrites i s (s.setIoTrace tr)
  /-- `EI` -/
  | enable {f : Fields} (hi : i = .ei f) : ExecWrites i s (s.setInte true)

theorem ExecWrites.orRaise {α : Type} {x : Except Fault α} {k : α → Result}
    (h : orRaise x s k = .next t) (hk : ∀ v, x = .ok v → k v = .next t → ExecWrites i s t) :
    ExecWrites i s t := by
  rcases orRaise_next h with ⟨v, hx, h⟩ | ⟨e, -, h⟩
  · exact hk v hx h
  · obtain ⟨-, -, rfl⟩ := raiseError_next h
    exact .error e

/-- A next state of the accumulator group. -/
theorem ExecWrites.acc {v : Byte} {f : Flags} (hw : writesReg i .a = true)
    (h : Host.Outcome.next (φ := Fault) (ρ := Refusal) ((s.setA v).setFlags f) = .next t) :
    ExecWrites i s t := by
  cases h; exact .byte (r := .a) f hw rfl

/-- An instruction whose table entry is the pair `r1` names writes that pair's registers. -/
theorem pairHolds_of_r1 {rp : Reg} (h : i.fields.r1 = some rp) (q : Reg) (hq : pairHolds rp q = true) :
    (i.fields.r1.any fun r => pairHolds r q) = true := by
  rw [h]; exact hq

/-- Whatever the instruction, a next state is one of `ExecWrites`. -/
theorem exec_writes (h : exec i s = .next t) : ExecWrites i s t := by
  cases i with
  | nop => exact .orRaise h fun _ _ h => by cases h; exact .flags s.flags
  | lxi =>
    exact .orRaise h fun _ _ h => .orRaise h fun rp hr h => .orRaise h fun u hu h => by
      cases h
      obtain ⟨hr1, -, -⟩ := oneReg_ok hr
      exact .pair t.flags (pairHolds_of_r1 hr1) (fun hs => decide_eq_true (hs ▸ hr1)) hu
  | inx | dcx =>
    exact .orRaise h fun _ _ h => .orRaise h fun rp hr h => .orRaise h fun _ _ h =>
      .orRaise h fun u hu h => by
      cases h
      obtain ⟨hr1, -, -⟩ := oneReg_ok hr
      exact .pair t.flags (pairHolds_of_r1 hr1) (fun hs => decide_eq_true (hs ▸ hr1)) hu
  | inr | dcr =>
    exact .orRaise h fun _ _ h => .orRaise h fun r hr h => .orRaise h fun _ _ h =>
      .orRaise h fun u hu h => by
      cases h; exact .byte _ (decide_eq_true (sourceReg_ok hr).1) hu
  | mov =>
    exact .orRaise h fun _ _ h => .orRaise h fun p hp h => .orRaise h fun _ _ h =>
      .orRaise h fun u hu h => by
      cases h; exact .byte t.flags (decide_eq_true (movRegs_ok hp).1) hu
  | mvi =>
    exact .orRaise h fun _ _ h => .orRaise h fun r hr h => .orRaise h fun u hu h => by
      cases h; exact .byte t.flags (decide_eq_true (oneReg_ok hr).1) hu
  | dad =>
    exact .orRaise h fun _ _ h => .orRaise h fun _ _ h => .orRaise h fun _ _ h => by
      cases h; exact .pair (rp := .h) _ (fun _ hq => hq) nofun rfl
  | ldax =>
    exact .orRaise h fun _ _ h => .orRaise h fun _ _ h => .orRaise h fun _ _ h =>
      .orRaise h fun _ _ h => .acc (f := s.flags) rfl h
  | lda =>
    exact .orRaise h fun _ _ h => .orRaise h fun _ _ h => .orRaise h fun _ _ h => .acc (f := s.flags) rfl h
  | add | sub | ana | xra =>
    exact .orRaise h fun _ _ h => .orRaise h fun _ _ h => .orRaise h fun _ _ h => .acc rfl h
  | adi | sui | ani => exact .orRaise h fun _ _ h => .orRaise h fun _ _ h => .acc rfl h
  | rrc => exact .orRaise h fun _ _ h => .acc rfl h
  | cpi => exact .orRaise h fun _ _ h => .orRaise h fun _ _ h => by cases h; exact .flags _
  | sta =>
    exact .orRaise h fun _ _ h => .orRaise h fun _ _ h => .orRaise h fun _ hu h => by
      cases h; rw [memWrite_frame hu]; exact .store _
  | push =>
    exact .orRaise h fun _ _ h => .orRaise h fun _ _ h => .orRaise h fun _ _ h =>
      .orRaise h fun _ hu h => by cases h; rw [push16_frame hu]; exact .push _ _ rfl
  | pop =>
    exact .orRaise h fun _ _ h => .orRaise h fun rp hr h => .orRaise h fun p hp h =>
      .orRaise h fun _ hu h => by
      cases h
      rw [(pop16_ok hp).2] at hu
      exact .pop (pairHolds_of_r1 (oneReg_ok hr).1) rfl hu
  | jmp => exact .orRaise h fun addr _ h => .orRaise h fun _ _ h => by cases h; exact .jump addr rfl
  | jz | jnc =>
    exact .orRaise h fun addr _ h => .orRaise h fun _ _ h => by
      cases h
      split
      · exact .jump addr rfl
      · exact .flags s.flags
  | jnz =>
    exact .orRaise h fun addr _ h => .orRaise h fun _ _ h => by
      cases h
      split
      · exact .flags s.flags
      · exact .jump addr rfl
  | call =>
    exact .orRaise h fun addr _ h => .orRaise h fun _ _ h => .orRaise h fun _ hu h => by
      cases h; rw [push16_frame hu]; exact .subroutine _ _ addr rfl rfl
  | ret =>
    exact .orRaise h fun _ _ h => .orRaise h fun p hp h => by
      cases h; rw [(pop16_ok hp).2]; exact .subroutine s.mem _ p.1 rfl rfl
  | out f =>
    exact .orRaise h fun _ _ h => .orRaise h fun _ _ h => .orRaise h fun _ hu h => by
      cases h; rw [(ioWrite_ok hu).2]; exact .output _ rfl
  | inp f =>
    exact .orRaise h fun _ _ h => .orRaise h fun _ _ h => .orRaise h fun p hp h => by
      obtain ⟨-, -, hp⟩ := ioRead_ok hp
      cases h; rw [hp]; exact .input _ _ _ rfl rfl
  | xchg => exact .orRaise h fun _ _ h => by cases h; exact .exchange _ _ fun _ hq => hq
  | ei f => exact .orRaise h fun _ _ h => by cases h; exact .enable rfl
  | unimpl u =>
    obtain ⟨-, -, rfl⟩ := raiseError_next (e := .unimplementedInstruction u.byte) h
    exact .error _

/-! ## The frames -/

/-- A byte register that `writesReg` does not list reads as before. -/
theorem exec_keeps_register (h : exec i s = .next t) (j : Instr) {q : Reg} (hm : q ≠ .m)
    (hq : writesReg i q = false) : rd8 j q t = rd8 j q s := by
  have hother : ∀ {r}, writesReg i r = true → q ≠ r := fun hr hqr => by simp_all
  have hpair : ∀ {rp}, (∀ r, pairHolds rp r = true → writesReg i r = true) → pairHolds rp q = false :=
    fun hw => Bool.eq_false_iff.mpr fun hp => hother (hw q hp) rfl
  cases exec_writes h with
  | error | flags | jump | output | enable => rfl
  | store m | push m | subroutine m => exact (rd8_setMem (s := s) (j := j) hm m :)
  | byte f hw hu => exact (rd8_wr8_other (j := j) hu hm (hother hw) :)
  | pair f hw hs hu | pop hw hs hu => exact (rd8_wrRP_other (j := j) hu hm (hpair hw) :)
  | input xs tr v hi hw =>
    exact rd8_wr8_other (s := (s.setInputs xs).setIoTrace tr) (i := i) (r := .a) (v := v) rfl hm
      (hother hw)
  | exchange v w hw =>
    have hh : pairHolds .h q = false := hpair fun r hr => hw r (by simp [hr])
    have hd : pairHolds .d q = false := hpair fun r hr => hw r (by simp [hr])
    exact (rd8_wrRP_other (i := i) (rp := .d) (w := w) rfl hm hd).trans
      (rd8_wrRP_other (i := i) (rp := .h) (w := v) rfl hm hh)

/-- `SP` changes only where `writesSp` says so. -/
theorem exec_keeps_sp (h : exec i s = .next t) (hsp : writesSp i = false) : t.sp = s.sp := by
  have hno : writesSp i ≠ true := by simp [hsp]
  cases exec_writes h with
  | error | flags | exchange | store | jump | input | output | enable => rfl
  | byte f hw hu => exact (wr8_frame hu).1
  | pair f hw hs hu => exact (wrRP_frame hu).1 fun hrp => hno (hs hrp)
  | pop _ hs | push _ _ hs | subroutine _ _ _ hs => exact absurd hs hno

/-- `PC` changes only where `writesPc` says so. -/
theorem exec_keeps_pc (h : exec i s = .next t) (hpc : writesPc i = false) : t.pc = s.pc := by
  have hno : writesPc i ≠ true := by simp [hpc]
  cases exec_writes h with
  | error | flags | exchange | store | push | input | output | enable => rfl
  | byte f hw hu => exact (wr8_frame hu).2.pc
  | pair f hw hs hu | pop hw hs hu => exact (wrRP_frame hu).2.pc
  | jump _ hp | subroutine _ _ _ _ hp => exact absurd hp hno

/-- `INTE` changes only by `EI`, the devices' coming answers only by `IN`, the I/O trace only by `IN` and
`OUT`. -/
theorem exec_keeps_control (h : exec i s = .next t) :
    ((∀ f, i ≠ .ei f) → t.inte = s.inte) ∧ ((∀ f, i ≠ .inp f) → t.inputs = s.inputs) ∧
      ((∀ f, i ≠ .inp f ∧ i ≠ .out f) → t.ioTrace = s.ioTrace) := by
  cases exec_writes h with
  | error | flags | exchange | store | push | jump | subroutine =>
    exact ⟨fun _ => rfl, fun _ => rfl, fun _ => rfl⟩
  | byte f hw hu =>
    have hc := (wr8_frame hu).2
    exact ⟨fun _ => hc.inte, fun _ => hc.inputs, fun _ => hc.ioTrace⟩
  | pair f hw hs hu | pop hw hs hu =>
    have hc := (wrRP_frame hu).2
    exact ⟨fun _ => hc.inte, fun _ => hc.inputs, fun _ => hc.ioTrace⟩
  | input _ _ _ hi => exact ⟨fun _ => rfl, fun hn => absurd hi (hn _), fun hn => absurd hi (hn _).1⟩
  | output _ hi => exact ⟨fun _ => rfl, fun _ => rfl, fun hn => absurd hi (hn _).2⟩
  | enable hi => exact ⟨fun hn => absurd hi (hn _), fun _ => rfl, fun _ => rfl⟩

/-! ## The statements -/

/-- Settles O41: each register is what `Rd8` reads, which `exec_keeps_register` keeps. -/
theorem onlyListedInstructionsWriteRegisters : Obligations.OnlyListedInstructionsWriteRegisters := by
  unfold Obligations.OnlyListedInstructionsWriteRegisters
  intro i s t h
  have hkeep : ∀ q, q ≠ Reg.m → writesReg i q = false → rd8 i q t = rd8 i q s :=
    fun q hm hq => exec_keeps_register h i hm hq
  exact ⟨fun hq => Except.ok.inj (hkeep .a nofun hq), fun hq => Except.ok.inj (hkeep .b nofun hq),
    fun hq => Except.ok.inj (hkeep .c nofun hq), fun hq => Except.ok.inj (hkeep .d nofun hq),
    fun hq => Except.ok.inj (hkeep .e nofun hq), fun hq => Except.ok.inj (hkeep .h nofun hq),
    fun hq => Except.ok.inj (hkeep .l nofun hq)⟩

/-- Settles O44, from the two frames. -/
theorem onlyListedInstructionsWriteSpAndPc : Obligations.OnlyListedInstructionsWriteSpAndPc := by
  unfold Obligations.OnlyListedInstructionsWriteSpAndPc
  exact fun i s t h => ⟨exec_keeps_sp h, exec_keeps_pc h⟩

/-- Settles O45: the slot, the parameters and the moves by `exec_effect`, the rest by `exec_keeps_control`. -/
theorem onlyEiAndIoTouchControlState : Obligations.OnlyEiAndIoTouchControlState := by
  unfold Obligations.OnlyEiAndIoTouchControlState
  intro i s t h
  have he := exec_effect h
  obtain ⟨hinte, hinputs, htrace⟩ := exec_keeps_control h
  exact ⟨he.pending, he.params, he.moves, hinte, he.inte, hinputs, htrace⟩

end Sys2Proof.Machine
end

section
/-! The interrupt controller over a whole cycle (spec/60_exceptions.md R272), the accessors designator by
designator (spec/10_state.md R26 to R29), and the state after reset (R25). -/

namespace Sys2Proof.Machine

variable {s t : State}

/-! ## Interrupts -/

/-- A step whose move is a cycle is that cycle, the move consumed. -/
theorem step_of_cycleNext (h : s.CycleNext) : ∃ m, step s = cycle (s.setMoves m) := by
  unfold step platformStep
  rcases h with hm | ⟨rest, hm⟩
  · exact ⟨s.moves, by rw [show s.setMoves s.moves = s from rfl, hm]⟩
  · exact ⟨rest, by rw [hm]⟩

/-- The ordinary half of a cycle leaves the slot alone and never clears `INTE`. -/
theorem ordinary_keeps_interrupts (h : ordinary s = .next t) :
    t.pending = s.pending ∧ (s.inte = true → t.inte = true) := by
  rcases ordinary_next h with ⟨-, rfl⟩ | ⟨rec, -, -, hx⟩
  · exact ⟨rfl, id⟩
  · have he := exec_effect hx
    exact ⟨he.pending, fun hi => he.inte.elim (fun h => h.trans hi) id⟩

/-- A cycle that accepts no interrupt leaves the slot alone and never clears `INTE`. -/
theorem cycle_keeps_interrupts (hn : s.inte = false ∨ s.pending = none) (h : cycle s = .next t) :
    t.pending = s.pending ∧ (s.inte = true → t.inte = true) := by
  rcases cycle_next h with ⟨-, ho⟩ | ⟨rec, u, hi, hp, -⟩
  · exact (ordinary_keeps_interrupts ho :)
  · rcases hn with hn | hn
    · simp [hn] at hi
    · simp [hn] at hp

/-- A cycle that accepts the pending record leaves the slot empty. -/
theorem cycle_consumes_pending {rec : Record} (hi : s.inte = true) (hp : s.pending = some rec)
    (h : cycle s = .next t) : t.pending = none := by
  rcases cycle_next h with ⟨hn | hn, -⟩ | ⟨rec, u, -, -, hx, hu⟩
  · simp [hi] at hn
  · simp [hp] at hn
  · have hpu : u.pending = none := (exec_effect hx).pending
    rcases hu with ⟨-, rfl⟩ | ⟨-, ho⟩
    · exact hpu
    · exact (ordinary_keeps_interrupts ho).1.trans hpu

/-- Settles O48: the step is a cycle, which accepts an interrupt or keeps the slot and `INTE`. -/
theorem interruptsWaitAndAreNeverDisabledByPrograms :
    Obligations.InterruptsWaitAndAreNeverDisabledByPrograms := by
  unfold Obligations.InterruptsWaitAndAreNeverDisabledByPrograms
  intro s t hc h
  obtain ⟨m, hm⟩ := step_of_cycleNext hc
  rw [hm] at h
  have hkeep : s.inte = false ∨ s.pending = none →
      t.pending = s.pending ∧ (s.inte = true → t.inte = true) :=
    fun hn => cycle_keeps_interrupts (s := s.setMoves m) hn h
  exact ⟨fun hi => (hkeep (.inl hi)).1,
    fun hi hp => ⟨(hkeep (.inr hp)).2 hi, (hkeep (.inr hp)).1.trans hp⟩,
    fun rec hi hp => cycle_consumes_pending (s := s.setMoves m) hi hp h⟩

/-! ## Pairs as numbers -/

theorem joinBytes_eq_ofNat (hi lo : Byte) :
    joinBytes hi lo = BitVec.ofNat 16 (hi.toNat * 256 + lo.toNat) := by
  rw [← joinBytes_toNat, BitVec.ofNat_toNat, BitVec.setWidth_eq]

theorem hiByte_eq_ofNat (v : Word) : hiByte v = BitVec.ofNat 8 (v.toNat / 256) := by
  apply BitVec.eq_of_toNat_eq
  simp [hiByte, BitVec.extractLsb'_toNat, Nat.shiftRight_eq_div_pow]

theorem loByte_eq_ofNat (v : Word) : loByte v = BitVec.ofNat 8 v.toNat := by
  apply BitVec.eq_of_toNat_eq
  simp [loByte, BitVec.extractLsb'_toNat]

/-! ## The statements -/

/-- Settles O9: every designator by definition, `M` at the number H:L stands for. -/
theorem byteOperandAccessors : Obligations.ByteOperandAccessors := by
  unfold Obligations.ByteOperandAccessors
  intro i s v
  rw [← joinBytes_eq_ofNat]
  exact ⟨⟨rfl, rfl, rfl, rfl, rfl, rfl, rfl, rfl, rfl⟩, rfl, rfl, rfl, rfl, rfl, rfl, rfl, rfl, rfl⟩

/-- Settles O10: a pair joins its halves into `high * 256 + low`. -/
theorem pairRead : Obligations.PairRead := by
  unfold Obligations.PairRead
  intro i s
  simp only [← joinBytes_eq_ofNat]
  exact ⟨rfl, rfl, rfl, rfl, by simp [rdRP]⟩

/-- Settles O11: the halves of a word are its quotient and remainder by 256. -/
theorem pairWrite : Obligations.PairWrite := by
  unfold Obligations.PairWrite
  intro i s v
  simp only [← hiByte_eq_ofNat, ← loByte_eq_ofNat]
  exact ⟨rfl, rfl, rfl, rfl, by simp [wrRP]⟩

/-- Settles O53, field by field. -/
theorem resetState : Obligations.ResetState := by
  unfold Obligations.ResetState
  exact ⟨rfl, rfl, rfl, rfl, rfl, rfl, rfl, rfl, rfl, rfl, rfl, rfl⟩

end Sys2Proof.Machine
end

section
/-! The memory interface (spec/20_memory.md R42, R43, R46, R49), what a step keeps of the memory and of the
parameters (R41), and what can stop a step (R102, R260). -/

namespace Sys2Proof.Machine

variable {s t : State} {i : Instr} {a : Word}

/-! ## What a step keeps -/

theorem runTurn_keeps {rest : List PlatformMove} (h : runTurn rest s = .next t) : Keeps s t := by
  rcases runTurn_next h with ⟨-, rfl⟩ | ⟨u, -, hu, rfl⟩
  · exact .of_same rfl rfl
  · refine (cycle_keeps hu).trans ?_
    split <;> exact .of_same rfl rfl

/-- A step stays within `Keeps`, unless it is the platform's own write (R59). -/
theorem step_keeps_or_pokes (h : step s = .next t) :
    Keeps s t ∨ ∃ a v rest, s.moves = .poke a v :: rest ∧
      t = (s.setMoves rest).setMem (s.mem.write a.toNat v) := by
  rcases step_next h with ⟨-, h⟩ | ⟨rest, -, h⟩ | ⟨rest, -, h⟩ | ⟨rec, rest, -, rfl⟩ | hpoke |
    ⟨rest, -, rfl⟩
  · exact .inl (cycle_keeps h)
  · exact .inl ((cycle_keeps h).from_same rfl rfl)
  · exact .inl (runTurn_keeps h)
  · exact .inl (.of_same rfl rfl)
  · exact .inr hpoke
  · exact .inl (.of_same rfl rfl)

theorem step_params (h : step s = .next t) : t.params = s.params := by
  rcases step_keeps_or_pokes h with hk | ⟨a, v, rest, -, rfl⟩
  · exact hk.params
  · rfl

/-- Settles O56: whatever the step, its writes are canonical writes at addresses below 2^16. -/
theorem stepKeepsMemoryCanonical : Obligations.StepKeepsMemoryCanonical := by
  unfold Obligations.StepKeepsMemoryCanonical
  intro s t hs h
  rcases step_keeps_or_pokes h with hk | ⟨a, v, rest, -, rfl⟩
  · exact hk.wf hs
  · exact Memory.wf_write hs a.isLt

/-- Settles O57: a step that is not the platform's write stays within `Keeps`. -/
theorem stepKeepsParametersAndUnwritableMemory :
    Obligations.StepKeepsParametersAndUnwritableMemory := by
  unfold Obligations.StepKeepsParametersAndUnwritableMemory
  intro s t h
  refine ⟨step_params h, fun hno => ?_⟩
  rcases step_keeps_or_pokes h with hk | ⟨a, v, rest, hpoke, -⟩
  · exact hk.outside
  · exact absurd hpoke (hno a v rest)

/-! ## What can stop a step -/

/-- An error that something done in state `s` may raise: one of the recoverable kinds, or `AddressFault` at an
address that is unmapped. -/
inductive CanRaise (s : State) : Fault → Prop where
  | recoverable {e : Fault} (he : e.terminal = false) : CanRaise s e
  | unmapped {a : Word} (ha : s.classAt a = .unmapped) : CanRaise s (.addressFault a)

/-- An operation that raises no other error. -/
def OnlyRaises {α : Type} (s : State) (x : Except Fault α) : Prop := ∀ e, x = .error e → CanRaise s e

/-- An outcome that something done in state `s` may have: a next state, a stop under `halt` at a recoverable
error, or a stop at an unmapped address. No refusal is one. -/
inductive SoundOutcome (s : State) : Result → Prop where
  | next (t : State) : SoundOutcome s (.next t)
  | halted {e : Fault} (hp : s.params.errorPolicy = .halt) (he : e.terminal = false) :
      SoundOutcome s (.fault e)
  | unmapped {a : Word} (ha : s.classAt a = .unmapped) : SoundOutcome s (.fault (.addressFault a))

/-- Which errors an operation may raise depends on the parameters alone. -/
theorem CanRaise.congr {e : Fault} (h : CanRaise t e) (hp : t.params = s.params) : CanRaise s e := by
  cases h with
  | recoverable he => exact .recoverable he
  | unmapped ha => exact .unmapped (classAt_congr hp _ ▸ ha)

/-- Which outcomes are sound depends on the parameters alone. -/
theorem SoundOutcome.congr {r : Result} (h : SoundOutcome t r) (hp : t.params = s.params) :
    SoundOutcome s r := by
  cases h with
  | next u => exact .next u
  | halted hh he => exact .halted (hp ▸ hh) he
  | unmapped ha => exact .unmapped (classAt_congr hp _ ▸ ha)

theorem SoundOutcome.raise {e : Fault} (h : CanRaise s e) : SoundOutcome s (raiseError e s) := by
  cases h with
  | unmapped ha => exact .unmapped ha
  | recoverable he =>
    cases hp : s.params.errorPolicy with
    | halt => rw [raiseError_halt hp]; exact .halted hp he
    | proceed => rw [raiseError_proceed hp he]; exact .next _

theorem SoundOutcome.orRaise {α : Type} {x : Except Fault α} {k : α → Result} (hx : OnlyRaises s x)
    (hk : ∀ v, SoundOutcome s (k v)) : SoundOutcome s (orRaise x s k) := by
  cases x with
  | ok v => exact hk v
  | error e => exact .raise (hx e rfl)

/-! ### The checks of step 4 raise recoverable errors only -/

theorem noData_raises : OnlyRaises s (noData i) :=
  fun _ h => .recoverable (noData_error h ▸ rfl)

theorem byteData_raises : OnlyRaises s (byteData i) :=
  fun _ h => .recoverable (byteData_error h ▸ rfl)

theorem wordData_raises : OnlyRaises s (wordData i) :=
  fun _ h => .recoverable (wordData_error h ▸ rfl)

theorem noRegs_raises : OnlyRaises s (noRegs i) :=
  fun _ h => .recoverable (noRegs_error h ▸ rfl)

theorem oneReg_raises {allowed : Reg → Bool} : OnlyRaises s (oneReg i allowed) :=
  fun _ h => .recoverable (oneReg_error h ▸ rfl)

theorem sourceReg_raises : OnlyRaises s (sourceReg i) := by
  intro e h
  obtain ⟨-, rfl⟩ | rfl := sourceReg_error h <;> exact .recoverable rfl

theorem movRegs_raises : OnlyRaises s (movRegs i) := by
  intro e h
  obtain ⟨-, rfl⟩ | rfl := movRegs_error h <;> exact .recoverable rfl

/-! ### The accesses raise `AddressFault` at unmapped addresses only -/

theorem memRead_raises : OnlyRaises s (memRead s a) := by
  intro e h
  obtain ⟨ha, rfl⟩ := memRead_error h
  exact .unmapped ha

theorem memWrite_raises {v : Byte} : OnlyRaises s (memWrite s a v) := by
  intro e h
  obtain ⟨ha, rfl⟩ := memWrite_error h
  exact .unmapped ha

theorem memRead16_raises : OnlyRaises s (memRead16 s a) := by
  intro e h
  unfold memRead16 at h
  split at h
  · cases h; exact memRead_raises _ ‹_›
  · split at h
    · cases h; exact memRead_raises _ ‹_›
    · cases h

theorem push16_raises {w : Word} : OnlyRaises s (push16 s w) := by
  intro e h
  unfold push16 at h
  split at h
  · cases h; exact memWrite_raises _ ‹_›
  · rename_i s1 h1
    split at h
    · cases h; exact (memWrite_raises _ ‹_›).congr (Effect.memWrite h1).params
    · cases h

theorem pop16_raises : OnlyRaises s (pop16 s) := by
  intro e h
  unfold pop16 at h
  split at h
  · cases h; exact memRead16_raises _ ‹_›
  · cases h

theorem fetchAt_raises : OnlyRaises s (fetchAt s a) := by
  intro e h
  obtain ⟨b, hb, rfl⟩ := fetchAt_error h
  exact .unmapped hb

theorem rd8_raises {r : Reg} : OnlyRaises s (rd8 i r s) := by
  intro e h
  obtain ⟨-, rfl⟩ | ⟨-, ha, rfl⟩ := rd8_error h
  · exact .recoverable rfl
  · exact .unmapped ha

theorem wr8_raises {r : Reg} {v : Byte} : OnlyRaises s (wr8 i r v s) := by
  intro e h
  cases r
  case m => exact memWrite_raises e h
  case sp => cases h; exact .recoverable rfl
  all_goals cases h

theorem rdRP_raises {rp : Reg} : OnlyRaises s (rdRP i rp s) :=
  fun _ h => .recoverable (rdRP_error h ▸ rfl)

theorem wrRP_raises {rp : Reg} {w : Word} {u : State} : OnlyRaises s (wrRP i rp w u) :=
  fun _ h => .recoverable (wrRP_error h ▸ rfl)

theorem ioRead_raises {port : Byte} : OnlyRaises s (ioRead s port) := by
  intro e h
  unfold ioRead at h
  split at h
  · cases h; exact .recoverable rfl
  · cases h

theorem ioWrite_raises {port v : Byte} : OnlyRaises s (ioWrite s port v) := by
  intro e h
  unfold ioWrite at h
  split at h
  · cases h; exact .recoverable rfl
  · cases h

/-! ### Every instruction, cycle and step -/

theorem exec_sound (i : Instr) (s : State) : SoundOutcome s (exec i s) := by
  cases i with
  | nop | rrc | xchg | ei => exact .orRaise noData_raises fun _ => .next _
  | lxi =>
    exact .orRaise wordData_raises fun _ => .orRaise oneReg_raises fun _ =>
      .orRaise wrRP_raises fun _ => .next _
  | inx | dcx =>
    exact .orRaise noData_raises fun _ => .orRaise oneReg_raises fun _ =>
      .orRaise rdRP_raises fun _ => .orRaise wrRP_raises fun _ => .next _
  | inr | dcr =>
    exact .orRaise noData_raises fun _ => .orRaise sourceReg_raises fun _ =>
      .orRaise rd8_raises fun _ => .orRaise wr8_raises fun _ => .next _
  | mvi =>
    exact .orRaise byteData_raises fun _ => .orRaise oneReg_raises fun _ =>
      .orRaise wr8_raises fun _ => .next _
  | mov =>
    exact .orRaise noData_raises fun _ => .orRaise movRegs_raises fun _ =>
      .orRaise rd8_raises fun _ => .orRaise wr8_raises fun _ => .next _
  | dad =>
    exact .orRaise noData_raises fun _ => .orRaise oneReg_raises fun _ =>
      .orRaise rdRP_raises fun _ => .next _
  | ldax =>
    exact .orRaise noData_raises fun _ => .orRaise oneReg_raises fun _ =>
      .orRaise rdRP_raises fun _ => .orRaise memRead_raises fun _ => .next _
  | lda =>
    exact .orRaise wordData_raises fun _ => .orRaise noRegs_raises fun _ =>
      .orRaise memRead_raises fun _ => .next _
  | sta =>
    exact .orRaise wordData_raises fun _ => .orRaise noRegs_raises fun _ =>
      .orRaise memWrite_raises fun _ => .next _
  | add | sub | ana | xra =>
    exact .orRaise noData_raises fun _ => .orRaise sourceReg_raises fun _ =>
      .orRaise rd8_raises fun _ => .next _
  | adi | sui | ani | cpi =>
    exact .orRaise byteData_raises fun _ => .orRaise noRegs_raises fun _ => .next _
  | jmp | jz | jnz | jnc =>
    exact .orRaise wordData_raises fun _ => .orRaise noRegs_raises fun _ => .next _
  | push =>
    exact .orRaise noData_raises fun _ => .orRaise oneReg_raises fun _ =>
      .orRaise rdRP_raises fun _ => .orRaise push16_raises fun _ => .next _
  | pop =>
    exact .orRaise noData_raises fun _ => .orRaise oneReg_raises fun _ =>
      .orRaise pop16_raises fun _ => .orRaise wrRP_raises fun _ => .next _
  | call =>
    exact .orRaise wordData_raises fun _ => .orRaise noRegs_raises fun _ =>
      .orRaise push16_raises fun _ => .next _
  | ret => exact .orRaise noData_raises fun _ => .orRaise pop16_raises fun _ => .next _
  | out =>
    exact .orRaise byteData_raises fun _ => .orRaise noRegs_raises fun _ =>
      .orRaise ioWrite_raises fun _ => .next _
  | inp =>
    exact .orRaise byteData_raises fun _ => .orRaise noRegs_raises fun _ =>
      .orRaise ioRead_raises fun _ => .next _
  | unimpl u => exact .raise (e := .unimplementedInstruction u.byte) (.recoverable rfl)

theorem enter_params (rec : Record) (isInterrupt : Bool) (s : State) :
    (enter rec isInterrupt s).params = s.params := by
  cases isInterrupt <;> rfl

theorem execRecord_sound (rec : Record) (isInterrupt : Bool) (s : State) :
    SoundOutcome s (execRecord rec isInterrupt s) :=
  (exec_sound rec _).congr (enter_params rec isInterrupt s)

theorem execRecord_params {rec : Record} {isInterrupt : Bool}
    (h : execRecord rec isInterrupt s = .next t) : t.params = s.params :=
  (exec_effect h).params.trans (enter_params rec isInterrupt s)

theorem ordinary_sound (s : State) : SoundOutcome s (ordinary s) := by
  unfold ordinary
  split
  · exact .orRaise fetchAt_raises fun rec => execRecord_sound rec false s
  · exact .next s

theorem cycle_sound (s : State) : SoundOutcome s (cycle s) := by
  unfold cycle
  split
  · exact (ordinary_sound _).congr rfl
  · rename_i rec s1 h1
    obtain ⟨-, -, rfl⟩ := takeInterrupt_some h1
    have hx := execRecord_sound rec true ((s.setAnswer (some .ok)).setPending none)
    split
    · rename_i u hu
      split
      · exact .next u
      · exact (ordinary_sound u).congr (execRecord_params hu :)
    · rename_i e he
      exact (he ▸ hx).congr rfl
    · rename_i r hr
      exact (hr ▸ hx).congr rfl

theorem runTurn_sound (rest : List PlatformMove) (s : State) : SoundOutcome s (runTurn rest s) := by
  have hc := cycle_sound s
  unfold runTurn
  split
  · split
    · exact .next _
    · rename_i e he
      exact he ▸ hc
    · rename_i r hr
      exact hr ▸ hc
  · exact .next _

/-- Whatever the platform's move, the outcome of a step is sound. -/
theorem step_sound (s : State) : SoundOutcome s (step s) := by
  unfold step platformStep
  split
  · exact cycle_sound s
  · exact (cycle_sound _).congr rfl
  · exact runTurn_sound _ s
  all_goals exact .next _

/-! ### A fully mapped machine -/

/-- Full mapping depends on the parameters alone. -/
theorem State.FullyMapped.congr (hm : s.FullyMapped) (hp : t.params = s.params) : t.FullyMapped :=
  fun a => classAt_congr hp a ▸ hm a

theorem step_ne_refused (s : State) (r : Refusal) : step s ≠ .refused r := by
  intro h
  have hs := step_sound s
  rw [h] at hs
  cases hs

theorem step_ne_addressFault (hm : s.FullyMapped) (a : Word) : step s ≠ .fault (.addressFault a) := by
  intro h
  have hs := step_sound s
  rw [h] at hs
  cases hs with
  | halted _ he => cases he
  | unmapped ha => exact hm a ha

theorem step_runs (hm : s.FullyMapped) (hp : s.params.errorPolicy = .proceed) : Runs (step s) := by
  have hs := step_sound s
  generalize step s = r at hs
  cases hs with
  | next t => exact ⟨t, rfl⟩
  | halted hh _ => simp [hp] at hh
  | unmapped ha => exact absurd ha (hm _)

theorem reaches_params (h : Reaches s t) : t.params = s.params := by
  induction h with
  | refl => rfl
  | tail _ hstep ih => exact (step_params hstep).trans ih

/-- Settles O58: a step's outcome is one of `SoundOutcome`, and the parameters it rests on never change. -/
theorem fullyMappedMachineNeverStopsUnderContinue :
    Obligations.FullyMappedMachineNeverStopsUnderContinue := by
  unfold Obligations.FullyMappedMachineNeverStopsUnderContinue
  refine ⟨step_ne_refused, fun s hm => ⟨step_ne_addressFault hm, fun t h => ?_⟩,
    fun s t hm hp hr => ?_⟩
  · have hpar := step_params h
    exact ⟨hm.congr hpar, by rw [hpar]⟩
  · have hpar := reaches_params hr
    exact step_runs (hm.congr hpar) (by rw [hpar, hp])

/-! ## The memory interface -/

/-- Address `a` holds the same byte in both states. -/
def SameByte (a : Word) (s t : State) : Prop := t.mem.read a.toNat = s.mem.read a.toNat

theorem SameByte.of_mem (h : t.mem = s.mem) : SameByte a s t := congrArg (Memory.read · a.toNat) h

theorem SameByte.memRead (h : SameByte a s t) (hp : t.params = s.params) :
    memRead t a = memRead s a := by
  unfold Machine.memRead
  rw [classAt_congr hp, h]

/-- A write leaves every other address alone. -/
theorem SameByte.memWrite {b : Word} {v : Byte} (h : memWrite s b v = .ok t) (hab : a ≠ b) :
    SameByte a s t := by
  rcases memWrite_ok h with ⟨-, rfl⟩ | ⟨-, rfl⟩
  · exact Memory.read_write_other s.mem v fun hba => hab (BitVec.eq_of_toNat_eq hba).symm
  · rfl

/-- A read/write address of a canonical memory reads back what was written (R43). -/
theorem memRead_memWrite_same {v : Byte} (hwf : s.mem.wf = true) (hrw : s.classAt a = .rw)
    (h : memWrite s a v = .ok t) : memRead t a = .ok v := by
  rw [memWrite_rw hrw] at h
  cases h
  have hclass : (s.setMem (s.mem.write a.toNat v)).classAt a = .rw := hrw
  rw [memRead_mapped (by rw [hclass]; decide), State.setMem_mem, Memory.read_write hwf, if_pos rfl]

/-- Settles O19: the three classes of an address in turn. -/
theorem memoryWrite : Obligations.MemoryWrite := by
  unfold Obligations.MemoryWrite
  intro s a v
  refine ⟨fun hrw hwf => ?_, memWrite_ro, memWrite_unmapped⟩
  have hw := memWrite_rw (v := v) hrw
  exact ⟨_, hw, rfl, memRead_memWrite_same hwf hrw hw, fun b hb => (SameByte.memWrite hw hb).memRead rfl⟩

theorem memRead16_of_reads {lo hi : Byte} (hlo : memRead s a = .ok lo)
    (hhi : memRead s (a + 1) = .ok hi) : memRead16 s a = .ok (joinBytes hi lo) := by
  unfold memRead16
  rw [hlo, hhi]

/-- Settles O18: the two classes that can be read, the one that cannot, and the two bytes of a word. -/
theorem memoryRead : Obligations.MemoryRead := by
  unfold Obligations.MemoryRead
  intro s a
  refine ⟨fun h => memRead_mapped ?_, memRead_unmapped, fun lo hi hlo hhi => ?_⟩
  · rcases h with h | h <;> rw [h] <;> decide
  · rw [memRead16_of_reads hlo hhi, joinBytes_eq_ofNat]

/-! ## The addresses an instruction stores to (R49) -/

theorem SameByte.orRaise {α : Type} {x : Except Fault α} {k : α → Result}
    (h : orRaise x s k = .next t) (hk : ∀ v, x = .ok v → k v = .next t → SameByte a s t) :
    SameByte a s t := by
  rcases orRaise_next h with ⟨v, hx, h⟩ | ⟨e, -, h⟩
  · exact hk v hx h
  · obtain ⟨-, -, rfl⟩ := raiseError_next h
    rfl

theorem SameByte.trans {u : State} (h : SameByte a s t) (k : SameByte a t u) : SameByte a s u :=
  Eq.trans k h

/-- An instruction's last step, from the state `u` its operation left. -/
theorem SameByte.next {u v : State} (h : Host.Outcome.next (φ := Fault) (ρ := Refusal) v = .next t)
    (hu : SameByte a s u) (hv : v.mem = u.mem) : SameByte a s t := by
  cases h
  exact hu.trans (.of_mem hv)

theorem SameByte.wr8 {r : Reg} {v : Byte} (h : wr8 i r v s = .ok t) (hm : r = .m → a ≠ s.hl) :
    SameByte a s t := by
  rcases wr8_ok h with rfl | rfl | rfl | rfl | rfl | rfl | rfl | ⟨hr, h⟩
  case inr.inr.inr.inr.inr.inr.inr => exact .memWrite h (hm hr)
  all_goals rfl

theorem SameByte.wrRP {rp : Reg} {w : Word} (h : wrRP i rp w s = .ok t) : SameByte a s t := by
  rcases wrRP_ok h with ⟨-, rfl⟩ | ⟨-, rfl⟩ | ⟨-, rfl⟩ | ⟨-, rfl⟩ <;> rfl

theorem SameByte.push {w : Word} (h : push16 s w = .ok t) (ha : a ∉ [s.sp - 1, s.sp - 2]) :
    SameByte a s t := by
  simp only [List.mem_cons, List.not_mem_nil, or_false, not_or] at ha
  obtain ⟨hhi, hlo⟩ := ha
  obtain ⟨s1, s2, h1, h2, rfl⟩ := push16_ok h
  have hfirst : SameByte a s s1 := .memWrite h1 hhi
  have hsecond : SameByte a s1 s2 := .memWrite h2 hlo
  exact hfirst.trans hsecond

theorem SameByte.pop {p : Word × State} (h : pop16 s = .ok p) : SameByte a s p.2 := by
  rw [(pop16_ok h).2]; rfl

theorem SameByte.ioRead {port : Byte} {p : Byte × State} (h : ioRead s port = .ok p) :
    SameByte a s p.2 := by
  obtain ⟨-, -, hp⟩ := ioRead_ok h
  rw [hp]; rfl

theorem SameByte.ioWrite {port v : Byte} (h : ioWrite s port v = .ok t) : SameByte a s t := by
  rw [(ioWrite_ok h).2]; rfl

/-- An address that a byte instruction does not store to is not that of `M`, if `M` is its destination. -/
theorem ne_hl_of_not_mem {r : Reg} (hr : i.fields.r1 = some r)
    (ha : a ∉ if i.fields.r1 = some .m then [s.hl] else []) : r = .m → a ≠ s.hl := by
  rintro rfl
  simpa [hr] using ha

/-- An instruction keeps every byte outside `storeAddrs`. -/
theorem exec_keeps_byte (h : exec i s = .next t) (ha : a ∉ storeAddrs i s) : SameByte a s t := by
  cases i with
  | nop | rrc | xchg | ei => exact .orRaise h fun _ _ h => .next h rfl rfl
  | adi | sui | ani | cpi | jmp => exact .orRaise h fun _ _ h => .orRaise h fun _ _ h => .next h rfl rfl
  | jz | jnz | jnc =>
    exact .orRaise h fun _ _ h => .orRaise h fun _ _ h => .next h rfl (by split <;> rfl)
  | dad | lda | add | sub | ana | xra =>
    exact .orRaise h fun _ _ h => .orRaise h fun _ _ h => .orRaise h fun _ _ h => .next h rfl rfl
  | ldax =>
    exact .orRaise h fun _ _ h => .orRaise h fun _ _ h => .orRaise h fun _ _ h =>
      .orRaise h fun _ _ h => .next h rfl rfl
  | lxi =>
    exact .orRaise h fun _ _ h => .orRaise h fun _ _ h => .orRaise h fun _ hu h =>
      .next h (.wrRP hu) rfl
  | inx | dcx =>
    exact .orRaise h fun _ _ h => .orRaise h fun _ _ h => .orRaise h fun _ _ h =>
      .orRaise h fun _ hu h => .next h (.wrRP hu) rfl
  | inr | dcr =>
    exact .orRaise h fun _ _ h => .orRaise h fun _ hr h => .orRaise h fun _ _ h =>
      .orRaise h fun _ hu h => .next h (.wr8 hu (ne_hl_of_not_mem (sourceReg_ok hr).1 ha)) rfl
  | mvi =>
    exact .orRaise h fun _ _ h => .orRaise h fun _ hr h => .orRaise h fun _ hu h =>
      .next h (.wr8 hu (ne_hl_of_not_mem (oneReg_ok hr).1 ha)) rfl
  | mov =>
    exact .orRaise h fun _ _ h => .orRaise h fun _ hr h => .orRaise h fun _ _ h =>
      .orRaise h fun _ hu h => .next h (.wr8 hu (ne_hl_of_not_mem (movRegs_ok hr).1 ha)) rfl
  | sta =>
    exact .orRaise h fun addr hd h => .orRaise h fun _ _ h => .orRaise h fun _ hu h =>
      .next h (.memWrite hu (by simpa [storeAddrs, wordData_ok hd] using ha)) rfl
  | push =>
    exact .orRaise h fun _ _ h => .orRaise h fun _ _ h => .orRaise h fun _ _ h =>
      .orRaise h fun _ hu h => .next h (.push hu ha) rfl
  | call =>
    exact .orRaise h fun _ _ h => .orRaise h fun _ _ h => .orRaise h fun _ hu h =>
      .next h (.push hu ha) rfl
  | pop =>
    exact .orRaise h fun _ _ h => .orRaise h fun _ _ h => .orRaise h fun _ hp h =>
      .orRaise h fun _ hu h => .next h ((SameByte.pop hp).trans (.wrRP hu)) rfl
  | ret => exact .orRaise h fun _ _ h => .orRaise h fun _ hp h => .next h (.pop hp) rfl
  | out =>
    exact .orRaise h fun _ _ h => .orRaise h fun _ _ h => .orRaise h fun _ hu h =>
      .next h (.ioWrite hu) rfl
  | inp =>
    exact .orRaise h fun _ _ h => .orRaise h fun _ _ h => .orRaise h fun _ hp h =>
      .next h (.ioRead hp) rfl
  | unimpl u =>
    obtain ⟨-, -, rfl⟩ := raiseError_next (e := .unimplementedInstruction u.byte) h
    rfl

/-- Settles O43: bytes outside the stores by `exec_keeps_byte`, unwritable ones by `exec_effect`. -/
theorem onlyStoredBytesChange : Obligations.OnlyStoredBytesChange := by
  unfold Obligations.OnlyStoredBytesChange
  intro i s t h a ha
  have he := exec_effect h
  have hbyte : SameByte a s t := ha.elim (exec_keeps_byte h) (he.outside a)
  exact hbyte.memRead he.params

end Sys2Proof.Machine
end

section
/-! The decoder and the encoder are inverse (spec/30_encoding.md R70 to R80). `decode_eq_ok_iff` says once what
the decoder answers; `opcode_reencodes`, that the fields an opcode byte is taken apart into put it together
again in the pattern of its mnemonic; `isDecoded_of_fetchable`, that bytes decode to every record `DECODE` can
return. -/

namespace Sys2Proof

open Laws

variable {b : Byte} {bytes rest : List Byte} {i rec : Instr} {tag : Payload → Len → Instr}

/-! ## What the decoder answers -/

/-- The successes of `decode`, one per format (R71, R76): the bytes read, then `rest`, and the record. -/
inductive Decodes (rest : List Byte) : List Byte → Record → Prop where
  | f1 {b : Byte} {tag : Payload → Len → Instr} (h : opcode b = (.f1, tag)) :
      Decodes rest (b :: rest) (tag .none .one)
  | f2 {b : Byte} {tag : Payload → Len → Instr} (h : opcode b = (.f2, tag)) (v : Byte) :
      Decodes rest (b :: v :: rest) (tag (.d8 v) .two)
  | f3 {b : Byte} {tag : Payload → Len → Instr} (h : opcode b = (.f3, tag)) (lo hi : Byte) :
      Decodes rest (b :: lo :: hi :: rest) (tag (.d16 (joinBytes hi lo)) .three)
  | unimplemented {b : Byte} {tag : Payload → Len → Instr} (h : opcode b = (.unimplemented, tag)) :
      Decodes rest (b :: rest) (tag .none (Config.unimplLen b))

theorem Decodes.decode_eq (h : Decodes rest bytes rec) : decode bytes = .ok (rec, rest) := by
  cases h with
  | f1 h | f2 h | f3 h | unimplemented h => simp only [decode, assemble, h]

theorem decodes_of_decode (h : decode bytes = .ok (rec, rest)) : Decodes rest bytes rec := by
  rcases bytes with _ | ⟨b, bs⟩
  · cases h
  rcases hb : opcode b with ⟨format, tag⟩
  cases format with
  | f1 => simp only [decode, assemble, hb] at h; cases h; exact .f1 hb
  | f2 =>
    rcases bs with _ | ⟨v, bs⟩ <;> simp only [decode, assemble, hb] at h <;> cases h
    exact .f2 hb v
  | f3 =>
    rcases bs with _ | ⟨lo, _ | ⟨hi, bs⟩⟩ <;> simp only [decode, assemble, hb] at h <;> cases h
    exact .f3 hb lo hi
  | unimplemented => simp only [decode, assemble, hb] at h; cases h; exact .unimplemented hb

theorem decode_eq_ok_iff : decode bytes = .ok (rec, rest) ↔ Decodes rest bytes rec :=
  ⟨decodes_of_decode, Decodes.decode_eq⟩

/-- The list of R78 against the decoder, byte by byte. -/
theorem opcode_unimplemented_iff (b : Byte) : (opcode b).1 = .unimplemented ↔ b ∈ unimplementedBytes := by
  revert b; decide

/-! ## The fields of an opcode byte (R71 to R73) -/

theorem grp_append_rp_append_low (b : Byte) :
    b.extractLsb' 6 2 ++ b.extractLsb' 4 2 ++ b.extractLsb' 0 4 = b := by
  have h : b.extractLsb' 6 2 ++ b.extractLsb' 4 2 = b.extractLsb' 4 4 :=
    BitVec.extractLsb'_append_extractLsb'_eq_extractLsb' rfl
  rw [h]
  exact (BitVec.extractLsb'_append_extractLsb'_eq_extractLsb' rfl).trans BitVec.extractLsb'_eq_self

theorem grp_append_ddd_append_sss (b : Byte) :
    b.extractLsb' 6 2 ++ b.extractLsb' 3 3 ++ b.extractLsb' 0 3 = b := by
  have h : b.extractLsb' 6 2 ++ b.extractLsb' 3 3 = b.extractLsb' 3 5 :=
    BitVec.extractLsb'_append_extractLsb'_eq_extractLsb' rfl
  rw [h]
  exact (BitVec.extractLsb'_append_extractLsb'_eq_extractLsb' rfl).trans BitVec.extractLsb'_eq_self

theorem code16_reg16OfField (p : BitVec 2) : (reg16OfField p.toNat).code16 = some p := by
  revert p; decide

theorem code8_reg8OfField (c : BitVec 3) : (reg8OfField c.toNat).code8 = some c := by
  revert c; decide

theorem isOperand16_reg16OfField (v : Nat) : (reg16OfField v).isOperand16 = true := by
  unfold reg16OfField; split <;> rfl

theorem isOperand8_reg8OfField (v : Nat) : (reg8OfField v).isOperand8 = true := by
  unfold reg8OfField; split <;> rfl

theorem isStackOperand_reg16OfField {v : Nat} (h : v < 3) : (reg16OfField v).isStackOperand = true := by
  interval_cases v <;> rfl

theorem isIndexOperand_reg16OfField {v : Nat} (h : v < 2) : (reg16OfField v).isIndexOperand = true := by
  interval_cases v <;> rfl

theorem code16_fieldRp (b : Byte) : (reg16OfField (fieldRp b)).code16 = some (b.extractLsb' 4 2) :=
  code16_reg16OfField _

theorem code8_fieldDdd (b : Byte) : (reg8OfField (fieldDdd b)).code8 = some (b.extractLsb' 3 3) :=
  code8_reg8OfField _

theorem code8_fieldSss (b : Byte) : (reg8OfField (fieldSss b)).code8 = some (b.extractLsb' 0 3) :=
  code8_reg8OfField _

/-- A byte of group `g` with low bits `l`, from its field `rp`. -/
theorem patternRp_fieldRp {g : BitVec 2} {l : BitVec 4} (hg : (b.extractLsb' 6 2).toNat = g.toNat)
    (hl : lowNibble b = l.toNat) : patternRp g l (some (reg16OfField (fieldRp b))) = some b := by
  obtain rfl := BitVec.eq_of_toNat_eq hg
  obtain rfl := BitVec.eq_of_toNat_eq hl
  simp [patternRp, code16_fieldRp, grp_append_rp_append_low]

/-- A byte of group 00 with low bits `l`, from its field `ddd`. -/
theorem patternDdd_fieldDdd {l : BitVec 3} (hg : (b.extractLsb' 6 2).toNat = 0)
    (hl : fieldSss b = l.toNat) : patternDdd l (some (reg8OfField (fieldDdd b))) = some b := by
  have hg := BitVec.eq_of_toNat_eq (y := 0b00#2) hg
  obtain rfl := BitVec.eq_of_toNat_eq hl
  simp [patternDdd, code8_fieldDdd, ← hg, grp_append_ddd_append_sss]

/-- A byte of group 10 with field `alu`, from its field `sss`. -/
theorem patternAlu_fieldSss {alu : BitVec 3} (hg : (b.extractLsb' 6 2).toNat = 2)
    (ha : fieldDdd b = alu.toNat) : patternAlu alu (some (reg8OfField (fieldSss b))) = some b := by
  have hg := BitVec.eq_of_toNat_eq (y := 0b10#2) hg
  obtain rfl := BitVec.eq_of_toNat_eq ha
  simp [patternAlu, code8_fieldSss, ← hg, grp_append_ddd_append_sss]

/-- A byte of group 01, from its fields `ddd` and `sss`. -/
theorem patternMov_fields (hg : (b.extractLsb' 6 2).toNat = 1) :
    patternMov (some (reg8OfField (fieldDdd b))) (some (reg8OfField (fieldSss b))) = some b := by
  have hg := BitVec.eq_of_toNat_eq (y := 0b01#2) hg
  simp [patternMov, code8_fieldDdd, code8_fieldSss, ← hg, grp_append_ddd_append_sss]

/-- The designators of a `MOV` byte that is not 0x76 are allowed. -/
theorem movRegs_of_fields {d s : Nat} (h : ¬(d = 6 ∧ s = 6)) (data : Payload) (len : Len) :
    Fields.movRegs ⟨some (reg8OfField d), some (reg8OfField s), data, len⟩ = true := by
  have hm : ∀ v, reg8OfField v = .m → v = 6 := by
    intro v; unfold reg8OfField; split <;> simp
  simp only [Fields.movRegs, Option.any_some, isOperand8_reg8OfField, Option.some.injEq, Bool.true_and]
  simpa [← not_and_or] using fun hd hs => h ⟨hm d hd, hm s hs⟩

/-! ## From the opcode byte to the record and back -/

/-- A record that `DECODE` can return, and its bytes. -/
def EncodesTo (i : Instr) (bs : List Byte) : Prop := i.fetchable = true ∧ encode i = some bs

theorem Instr.wf_of_fetchable (h : i.fetchable = true) : i.wf = true :=
  (Bool.and_eq_true_iff.mp (Bool.and_eq_true_iff.mp h).1).1

/-- A record whose designators pass their check `regs`, with the right payload and length, and the format's
answer for it. -/
theorem EncodesTo.of_regs {regs : Bool} {bs : List Byte} {x : Option (List Byte)} (hr : regs = true)
    (hf : i.fetchable = (regs && true && true && true)) (he : (if i.wf then x else none) = encode i)
    (hx : x = some bs) : EncodesTo i bs := by
  have hfetch : i.fetchable = true := by rw [hf, hr]; rfl
  exact ⟨hfetch, (encode_wf (Instr.wf_of_fetchable hfetch) he).trans hx⟩

theorem oneReg_of_allowed {allowed : Reg → Bool} {r : Reg} (h : allowed r = true) (data : Payload)
    (len : Len) : Fields.oneReg ⟨some r, none, data, len⟩ allowed = true := by
  simp [Fields.oneReg, h]

/-- What the size class and the tag of an opcode byte `b` owe: with the operand bytes of the format, a record
that encodes back to `b` and those bytes; for an unimplemented byte, `UNIMPL` of itself. -/
def Reencodes (b : Byte) : Format × (Payload → Len → Instr) → Prop
  | (.f1, tag) => EncodesTo (tag .none .one) [b]
  | (.f2, tag) => ∀ v : Byte, EncodesTo (tag (.d8 v) .two) [b, v]
  | (.f3, tag) => ∀ w : Word, EncodesTo (tag (.d16 w) .three) [b, loByte w, hiByte w]
  | (.unimplemented, tag) => ∀ data len, tag data len = .unimpl ⟨b, .bare data len⟩

/-- A mnemonic with one designator and no operand byte. -/
theorem Reencodes.reg_f1 {mk : Option Reg → Rest1 → Instr} {allowed : Reg → Bool} {r : Reg}
    {p : Option Byte} (hr : allowed r = true)
    (hf : (mk (some r) (.bare .none .one)).fetchable =
      (Fields.oneReg ⟨some r, none, .none, .one⟩ allowed && true && true && true))
    (he : (if (mk (some r) (.bare .none .one)).wf then encodeF1 .none p else none) =
      encode (mk (some r) (.bare .none .one)))
    (hp : p = some b) : Reencodes b (.f1, fun d n => mk (some r) (.bare d n)) :=
  EncodesTo.of_regs (oneReg_of_allowed hr _ _) hf he (congrArg (encodeF1 .none) hp)

/-- A byte compared as a number is the byte it is compared with. -/
theorem Reencodes.of_toNat {k : Byte} {x : Format × (Payload → Len → Instr)} (h : b.toNat = k.toNat)
    (hk : Reencodes k x) : Reencodes b x := by
  rwa [BitVec.eq_of_toNat_eq h]

theorem opcodeGroup0_reencodes (hg : (b.extractLsb' 6 2).toNat = 0) : Reencodes b (opcodeGroup0 b) := by
  unfold opcodeGroup0
  split
  case h_1 h => exact .of_toNat (k := 0x00) h ⟨rfl, rfl⟩
  case h_2 h => exact .of_toNat (k := 0x0F) h ⟨rfl, rfl⟩
  case h_3 h => exact .of_toNat (k := 0x32) h fun _ => ⟨rfl, rfl⟩
  case h_4 h => exact .of_toNat (k := 0x3A) h fun _ => ⟨rfl, rfl⟩
  case h_5 =>
    have h16 := isOperand16_reg16OfField (fieldRp b)
    have h8 := isOperand8_reg8OfField (fieldDdd b)
    split
    case h_1 h =>
      exact fun w => EncodesTo.of_regs (oneReg_of_allowed h16 _ _) rfl rfl
        (congrArg (encodeF3 (.d16 w)) (patternRp_fieldRp hg h))
    case h_2 h => exact .reg_f1 h16 rfl rfl (patternRp_fieldRp hg h)
    case h_3 h => exact .reg_f1 h16 rfl rfl (patternRp_fieldRp hg h)
    case h_4 h => exact .reg_f1 h16 rfl rfl (patternRp_fieldRp hg h)
    case h_5 h =>
      split
      · exact .reg_f1 (isIndexOperand_reg16OfField ‹_›) rfl rfl (patternRp_fieldRp hg h)
      · exact fun _ _ => rfl
    case h_6 =>
      split
      case h_1 h => exact .reg_f1 h8 rfl rfl (patternDdd_fieldDdd hg h)
      case h_2 h => exact .reg_f1 h8 rfl rfl (patternDdd_fieldDdd hg h)
      case h_3 h =>
        exact fun v => EncodesTo.of_regs (oneReg_of_allowed h8 _ _) rfl rfl
          (congrArg (encodeF2 (.d8 v)) (patternDdd_fieldDdd (l := 0b110) hg h))
      case h_4 => exact fun _ _ => rfl

theorem opcodeGroup1_reencodes (hg : (b.extractLsb' 6 2).toNat = 1) : Reencodes b (opcodeGroup1 b) := by
  unfold opcodeGroup1
  split
  case isTrue => exact fun _ _ => rfl
  case isFalse h =>
    exact EncodesTo.of_regs (movRegs_of_fields h _ _) rfl rfl
      (congrArg (encodeF1 .none) (patternMov_fields hg))

theorem opcodeGroup2_reencodes (hg : (b.extractLsb' 6 2).toNat = 2) : Reencodes b (opcodeGroup2 b) := by
  have h8 := isOperand8_reg8OfField (fieldSss b)
  unfold opcodeGroup2
  split
  case h_1 h => exact .reg_f1 h8 rfl rfl (patternAlu_fieldSss hg h)
  case h_2 h => exact .reg_f1 h8 rfl rfl (patternAlu_fieldSss hg h)
  case h_3 h => exact .reg_f1 h8 rfl rfl (patternAlu_fieldSss hg h)
  case h_4 h => exact .reg_f1 h8 rfl rfl (patternAlu_fieldSss hg h)
  case h_5 => exact fun _ _ => rfl

theorem opcodeGroup3_reencodes (hg : (b.extractLsb' 6 2).toNat = 3) : Reencodes b (opcodeGroup3 b) := by
  unfold opcodeGroup3
  split
  case h_1 h => exact .of_toNat (k := 0xC2) h fun _ => ⟨rfl, rfl⟩
  case h_2 h => exact .of_toNat (k := 0xC3) h fun _ => ⟨rfl, rfl⟩
  case h_3 h => exact .of_toNat (k := 0xC6) h fun _ => ⟨rfl, rfl⟩
  case h_4 h => exact .of_toNat (k := 0xC9) h ⟨rfl, rfl⟩
  case h_5 h => exact .of_toNat (k := 0xCA) h fun _ => ⟨rfl, rfl⟩
  case h_6 h => exact .of_toNat (k := 0xCD) h fun _ => ⟨rfl, rfl⟩
  case h_7 h => exact .of_toNat (k := 0xD2) h fun _ => ⟨rfl, rfl⟩
  case h_8 h => exact .of_toNat (k := 0xD3) h fun _ => ⟨rfl, rfl⟩
  case h_9 h => exact .of_toNat (k := 0xD6) h fun _ => ⟨rfl, rfl⟩
  case h_10 h => exact .of_toNat (k := 0xDB) h fun _ => ⟨rfl, rfl⟩
  case h_11 h => exact .of_toNat (k := 0xE6) h fun _ => ⟨rfl, rfl⟩
  case h_12 h => exact .of_toNat (k := 0xEB) h ⟨rfl, rfl⟩
  case h_13 h => exact .of_toNat (k := 0xFB) h ⟨rfl, rfl⟩
  case h_14 h => exact .of_toNat (k := 0xFE) h fun _ => ⟨rfl, rfl⟩
  case h_15 =>
    split
    · exact fun _ _ => rfl
    · rename_i hrp
      have hlt : fieldRp b < 4 := (b.extractLsb' 4 2).isLt
      have hstack := isStackOperand_reg16OfField (v := fieldRp b) (by omega)
      split
      case h_1 h => exact .reg_f1 hstack rfl rfl (patternRp_fieldRp hg h)
      case h_2 h => exact .reg_f1 hstack rfl rfl (patternRp_fieldRp hg h)
      case h_3 => exact fun _ _ => rfl

theorem opcode_reencodes (b : Byte) : Reencodes b (opcode b) := by
  unfold opcode
  split
  case h_1 h => exact opcodeGroup0_reencodes h
  case h_2 h => exact opcodeGroup1_reencodes h
  case h_3 h => exact opcodeGroup2_reencodes h
  case h_4 h0 h1 h2 =>
    have hlt : (b.extractLsb' 6 2).toNat < 4 := (b.extractLsb' 6 2).isLt
    rw [imp_false] at h0 h1 h2
    exact opcodeGroup3_reencodes (by omega)

/-- An unimplemented byte decodes to `UNIMPL` of itself (R79). -/
theorem decodes_unimplemented (h : b ∈ unimplementedBytes) (rest : List Byte) :
    Decodes rest (b :: rest) (.unimpl ⟨b, .bare .none (Config.unimplLen b)⟩) := by
  have hb : opcode b = (.unimplemented, (opcode b).2) := Prod.ext ((opcode_unimplemented_iff b).mpr h) rfl
  have htag : Reencodes b (.unimplemented, (opcode b).2) := hb ▸ opcode_reencodes b
  rw [← htag]
  exact .unimplemented hb

/-- What the decoder returns encodes to the bytes it was read from (R80). -/
theorem Decodes.encodesTo (h : Decodes rest bytes rec) : ∃ bs, EncodesTo rec bs ∧ bytes = bs ++ rest := by
  cases h with
  | @f1 b tag h =>
    have hre : Reencodes b (.f1, tag) := h ▸ opcode_reencodes b
    exact ⟨[b], hre, rfl⟩
  | @f2 b tag h v =>
    have hre : Reencodes b (.f2, tag) := h ▸ opcode_reencodes b
    exact ⟨[b, v], hre v, rfl⟩
  | @f3 b tag h lo hi =>
    have hre : Reencodes b (.f3, tag) := h ▸ opcode_reencodes b
    exact ⟨[b, lo, hi], by simpa using hre (joinBytes hi lo), rfl⟩
  | @unimplemented b tag h =>
    have htag : Reencodes b (.unimplemented, tag) := h ▸ opcode_reencodes b
    have hmem : b ∈ unimplementedBytes := (opcode_unimplemented_iff b).mp (by rw [h])
    rw [htag]
    refine ⟨[b], ⟨?_, ?_⟩, rfl⟩
    · simp [Instr.fetchable, Instr.wf, hmem, Instr.fields, Instr.decodedLen, Fields.noRegs, Payload.isNone]
    · simp [encode, Instr.wf, hmem]

/-- Settles O4: an opcode byte's fields put it together again, in every format (`opcode_reencodes`). -/
theorem decodedRecordIsWellFormedAndReencodes : Obligations.DecodedRecordIsWellFormedAndReencodes := by
  unfold Obligations.DecodedRecordIsWellFormedAndReencodes
  intro bytes rec rest h
  obtain ⟨bs, ⟨hfetch, henc⟩, hbytes⟩ := (decode_eq_ok_iff.mp h).encodesTo
  exact ⟨Instr.wf_of_fetchable hfetch, hfetch, bs, henc, hbytes⟩

/-! ## Every record `DECODE` can return has bytes -/

/-- Some bytes decode to the record, whatever follows them. -/
def IsDecoded (i : Instr) : Prop := ∃ bs, ∀ rest, Decodes rest (bs ++ rest) i

/-- The rows of R71 beside the opcode byte: a format, its payload and its length. -/
inductive FormatRow : Format → (Payload → Bool) → Len → Prop where
  | f1 : FormatRow .f1 Payload.isNone .one
  | f2 : FormatRow .f2 Payload.isD8 .two
  | f3 : FormatRow .f3 Payload.isD16 .three

section
variable {format : Format} {dataOk : Payload → Bool} {len : Len}

theorem isDecoded_of_opcode {data : Payload} (row : FormatRow format dataOk len)
    (hb : opcode b = (format, tag)) (hd : dataOk data = true) : IsDecoded (tag data len) := by
  cases row with
  | f1 => cases data <;> cases hd; exact ⟨[b], fun _ => .f1 hb⟩
  | f2 => cases data <;> cases hd; exact ⟨[b, _], fun _ => .f2 hb _⟩
  | f3 =>
    cases data <;> cases hd
    rename_i w
    exact ⟨[b, loByte w, hiByte w],
      fun rest => by simpa using Decodes.f3 (rest := rest) hb (loByte w) (hiByte w)⟩

/-- A mnemonic without designators has one opcode byte. -/
theorem isDecoded_fixed {mk : Fields → Instr} {f : Fields} (b : Byte) (row : FormatRow format dataOk len)
    (hb : opcode b = (format, fun d n => mk (.bare d n)))
    (h : (f.noRegs && dataOk f.data && decide (f.len = len) && true) = true) : IsDecoded (mk f) := by
  simp only [Fields.noRegs, Bool.and_eq_true, Option.isNone_iff_eq_none, decide_eq_true_eq] at h
  obtain ⟨r1, r2, data, n⟩ := f
  obtain ⟨⟨⟨⟨rfl, rfl⟩, hd⟩, rfl⟩, -⟩ := h
  exact isDecoded_of_opcode row hb hd

/-- A mnemonic with one designator has the opcode byte of its pattern, for every designator allowed. -/
theorem isDecoded_reg {mk : Option Reg → Rest1 → Instr} {allowed : Reg → Bool}
    {pattern : Option Reg → Option Byte} {r1 : Option Reg} {rest : Rest1} (row : FormatRow format dataOk len)
    (hp : ∀ {f : Fields}, f.oneReg allowed = true → ∃ b, pattern f.r1 = some b)
    (hb : ∀ {r : Reg} {b : Byte}, allowed r = true → pattern (some r) = some b →
      opcode b = (format, fun d n => mk (some r) (.bare d n)))
    (h : (Fields.oneReg ⟨r1, rest.r2, rest.data, rest.len⟩ allowed && dataOk rest.data &&
      decide (rest.len = len) && true) = true) : IsDecoded (mk r1 rest) := by
  simp only [Bool.and_eq_true, decide_eq_true_eq] at h
  obtain ⟨⟨⟨hone, hd⟩, hl⟩, -⟩ := h
  obtain ⟨b, hpb⟩ := hp hone
  simp only [Fields.oneReg, Bool.and_eq_true, Option.isNone_iff_eq_none, Option.any_eq_true] at hone
  obtain ⟨r2, data, n⟩ := rest
  obtain ⟨⟨r, rfl, hr⟩, rfl⟩ := hone
  cases hl
  exact isDecoded_of_opcode row (hb hr hpb) hd

end

/-! ### The decoder on the patterns of R71 -/

section
variable {r : Reg}

theorem opcode_lxi (hr : r.isOperand16 = true) (hp : patternRp 0b00 0b0001 (some r) = some b) :
    opcode b = (.f3, fun d n => .lxi (some r) (.bare d n)) := by
  cases r <;> cases hr <;> cases hp <;> rfl

theorem opcode_ldax (hr : r.isIndexOperand = true) (hp : patternRp 0b00 0b1010 (some r) = some b) :
    opcode b = (.f1, fun d n => .ldax (some r) (.bare d n)) := by
  cases r <;> cases hr <;> cases hp <;> rfl

theorem opcode_inx (hr : r.isOperand16 = true) (hp : patternRp 0b00 0b0011 (some r) = some b) :
    opcode b = (.f1, fun d n => .inx (some r) (.bare d n)) := by
  cases r <;> cases hr <;> cases hp <;> rfl

theorem opcode_dcx (hr : r.isOperand16 = true) (hp : patternRp 0b00 0b1011 (some r) = some b) :
    opcode b = (.f1, fun d n => .dcx (some r) (.bare d n)) := by
  cases r <;> cases hr <;> cases hp <;> rfl

theorem opcode_dad (hr : r.isOperand16 = true) (hp : patternRp 0b00 0b1001 (some r) = some b) :
    opcode b = (.f1, fun d n => .dad (some r) (.bare d n)) := by
  cases r <;> cases hr <;> cases hp <;> rfl

theorem opcode_pop (hr : r.isStackOperand = true) (hp : patternRp 0b11 0b0001 (some r) = some b) :
    opcode b = (.f1, fun d n => .pop (some r) (.bare d n)) := by
  cases r <;> cases hr <;> cases hp <;> rfl

theorem opcode_push (hr : r.isStackOperand = true) (hp : patternRp 0b11 0b0101 (some r) = some b) :
    opcode b = (.f1, fun d n => .push (some r) (.bare d n)) := by
  cases r <;> cases hr <;> cases hp <;> rfl

theorem opcode_inr (hr : r.isOperand8 = true) (hp : patternDdd 0b100 (some r) = some b) :
    opcode b = (.f1, fun d n => .inr (some r) (.bare d n)) := by
  cases r <;> cases hr <;> cases hp <;> rfl

theorem opcode_dcr (hr : r.isOperand8 = true) (hp : patternDdd 0b101 (some r) = some b) :
    opcode b = (.f1, fun d n => .dcr (some r) (.bare d n)) := by
  cases r <;> cases hr <;> cases hp <;> rfl

theorem opcode_mvi (hr : r.isOperand8 = true) (hp : patternDdd 0b110 (some r) = some b) :
    opcode b = (.f2, fun d n => .mvi (some r) (.bare d n)) := by
  cases r <;> cases hr <;> cases hp <;> rfl

theorem opcode_add (hr : r.isOperand8 = true) (hp : patternAlu 0b000 (some r) = some b) :
    opcode b = (.f1, fun d n => .add (some r) (.bare d n)) := by
  cases r <;> cases hr <;> cases hp <;> rfl

theorem opcode_sub (hr : r.isOperand8 = true) (hp : patternAlu 0b010 (some r) = some b) :
    opcode b = (.f1, fun d n => .sub (some r) (.bare d n)) := by
  cases r <;> cases hr <;> cases hp <;> rfl

theorem opcode_ana (hr : r.isOperand8 = true) (hp : patternAlu 0b100 (some r) = some b) :
    opcode b = (.f1, fun d n => .ana (some r) (.bare d n)) := by
  cases r <;> cases hr <;> cases hp <;> rfl

theorem opcode_xra (hr : r.isOperand8 = true) (hp : patternAlu 0b101 (some r) = some b) :
    opcode b = (.f1, fun d n => .xra (some r) (.bare d n)) := by
  cases r <;> cases hr <;> cases hp <;> rfl

theorem reg8OfField_code8 {c : BitVec 3} (h : r.code8 = some c) : reg8OfField c.toNat = r := by
  cases r <;> cases h <;> rfl

end

theorem fields_of_append (g : BitVec 2) (d s : BitVec 3) :
    (g ++ d ++ s).extractLsb' 6 2 = g ∧ (g ++ d ++ s).extractLsb' 3 3 = d ∧
      (g ++ d ++ s).extractLsb' 0 3 = s := by
  revert g d s; decide

theorem opcode_mov {dst src : Reg} (hm : ¬(dst = .m ∧ src = .m))
    (hp : patternMov (some dst) (some src) = some b) :
    opcode b = (.f1, fun d n => .mov (some dst) (some src) ⟨d, n⟩) := by
  unfold patternMov at hp
  split at hp
  case h_2 => cases hp
  case h_1 d s hd hs =>
    cases hp
    obtain ⟨hgrp, hddd, hsss⟩ := fields_of_append 0b01#2 d s
    have hdst : reg8OfField d.toNat = dst := reg8OfField_code8 hd
    have hsrc : reg8OfField s.toNat = src := reg8OfField_code8 hs
    have hne : ¬(d.toNat = 6 ∧ s.toNat = 6) := fun ⟨h1, h2⟩ =>
      hm ⟨by rw [← hdst, h1]; rfl, by rw [← hsrc, h2]; rfl⟩
    unfold opcode
    rw [hgrp]
    show opcodeGroup1 _ = _
    unfold opcodeGroup1 fieldDdd fieldSss
    rw [hddd, hsss, if_neg hne, hdst, hsrc]

theorem isDecoded_mov {r1 r2 : Option Reg} {rest : Rest2} (h : (Instr.mov r1 r2 rest).fetchable = true) :
    IsDecoded (.mov r1 r2 rest) := by
  obtain ⟨data, len⟩ := rest
  have h : (Fields.movRegs ⟨r1, r2, data, len⟩ && data.isNone && decide (len = .one) && true) = true := h
  simp only [Bool.and_eq_true, decide_eq_true_eq] at h
  obtain ⟨⟨⟨hregs, hd⟩, hl⟩, -⟩ := h
  obtain ⟨b, hp⟩ := patternMov_of hregs
  simp only [Fields.movRegs, Bool.and_eq_true, Option.any_eq_true] at hregs
  obtain ⟨⟨⟨dst, rfl, -⟩, src, rfl, -⟩, hm⟩ := hregs
  cases hl
  exact isDecoded_of_opcode .f1 (opcode_mov (by simpa [← not_and_or] using hm) hp) hd

theorem isDecoded_unimpl {u : UnimplRest} (h : (Instr.unimpl u).fetchable = true) :
    IsDecoded (.unimpl u) := by
  obtain ⟨b, r1, r2, data, len⟩ := u
  have h : (decide (b ∈ unimplementedBytes) && decide (len = Config.unimplLen b) &&
      (Fields.noRegs ⟨r1, r2, data, len⟩ && data.isNone)) = true := h
  simp only [Fields.noRegs, Bool.and_eq_true, decide_eq_true_eq, Option.isNone_iff_eq_none] at h
  obtain ⟨⟨hb, rfl⟩, ⟨rfl, rfl⟩, hd⟩ := h
  cases data <;> cases hd
  exact ⟨[b], decodes_unimplemented hb⟩

theorem isDecoded_of_fetchable (h : i.fetchable = true) : IsDecoded i := by
  cases i with
  | nop => exact isDecoded_fixed 0x00 .f1 rfl h
  | rrc => exact isDecoded_fixed 0x0F .f1 rfl h
  | sta => exact isDecoded_fixed 0x32 .f3 rfl h
  | lda => exact isDecoded_fixed 0x3A .f3 rfl h
  | jnz => exact isDecoded_fixed 0xC2 .f3 rfl h
  | jmp => exact isDecoded_fixed 0xC3 .f3 rfl h
  | adi => exact isDecoded_fixed 0xC6 .f2 rfl h
  | ret => exact isDecoded_fixed 0xC9 .f1 rfl h
  | jz => exact isDecoded_fixed 0xCA .f3 rfl h
  | call => exact isDecoded_fixed 0xCD .f3 rfl h
  | jnc => exact isDecoded_fixed 0xD2 .f3 rfl h
  | out => exact isDecoded_fixed 0xD3 .f2 rfl h
  | sui => exact isDecoded_fixed 0xD6 .f2 rfl h
  | inp => exact isDecoded_fixed 0xDB .f2 rfl h
  | ani => exact isDecoded_fixed 0xE6 .f2 rfl h
  | xchg => exact isDecoded_fixed 0xEB .f1 rfl h
  | ei => exact isDecoded_fixed 0xFB .f1 rfl h
  | cpi => exact isDecoded_fixed 0xFE .f2 rfl h
  | lxi => exact isDecoded_reg .f3 (patternRp_of (fun _ hr => hr) · _ _) opcode_lxi h
  | ldax => exact isDecoded_reg .f1 (patternRp_of operand16_of_index · _ _) opcode_ldax h
  | inx => exact isDecoded_reg .f1 (patternRp_of (fun _ hr => hr) · _ _) opcode_inx h
  | dcx => exact isDecoded_reg .f1 (patternRp_of (fun _ hr => hr) · _ _) opcode_dcx h
  | dad => exact isDecoded_reg .f1 (patternRp_of (fun _ hr => hr) · _ _) opcode_dad h
  | pop => exact isDecoded_reg .f1 (patternRp_of operand16_of_stack · _ _) opcode_pop h
  | push => exact isDecoded_reg .f1 (patternRp_of operand16_of_stack · _ _) opcode_push h
  | inr => exact isDecoded_reg .f1 (patternDdd_of · _) opcode_inr h
  | dcr => exact isDecoded_reg .f1 (patternDdd_of · _) opcode_dcr h
  | mvi => exact isDecoded_reg .f2 (patternDdd_of · _) opcode_mvi h
  | add => exact isDecoded_reg .f1 (patternAlu_of · _) opcode_add h
  | sub => exact isDecoded_reg .f1 (patternAlu_of · _) opcode_sub h
  | ana => exact isDecoded_reg .f1 (patternAlu_of · _) opcode_ana h
  | xra => exact isDecoded_reg .f1 (patternAlu_of · _) opcode_xra h
  | mov => exact isDecoded_mov h
  | unimpl => exact isDecoded_unimpl h

/-- Every well-formed record has an encoding, of the length of its format. -/
theorem encodedLength (i : Instr) : EncodedLength.Statement i :=
  match i with
  | .nop f => EncodedLength.nop f
  | .rrc f => EncodedLength.rrc f
  | .sta f => EncodedLength.sta f
  | .lda f => EncodedLength.lda f
  | .jnz f => EncodedLength.jnz f
  | .jmp f => EncodedLength.jmp f
  | .adi f => EncodedLength.adi f
  | .ret f => EncodedLength.ret f
  | .jz f => EncodedLength.jz f
  | .call f => EncodedLength.call f
  | .jnc f => EncodedLength.jnc f
  | .out f => EncodedLength.out f
  | .sui f => EncodedLength.sui f
  | .inp f => EncodedLength.inp f
  | .ani f => EncodedLength.ani f
  | .xchg f => EncodedLength.xchg f
  | .ei f => EncodedLength.ei f
  | .cpi f => EncodedLength.cpi f
  | .lxi r1 rest => EncodedLength.lxi r1 rest
  | .ldax r1 rest => EncodedLength.ldax r1 rest
  | .inx r1 rest => EncodedLength.inx r1 rest
  | .dcx r1 rest => EncodedLength.dcx r1 rest
  | .dad r1 rest => EncodedLength.dad r1 rest
  | .pop r1 rest => EncodedLength.pop r1 rest
  | .push r1 rest => EncodedLength.push r1 rest
  | .inr r1 rest => EncodedLength.inr r1 rest
  | .dcr r1 rest => EncodedLength.dcr r1 rest
  | .mvi r1 rest => EncodedLength.mvi r1 rest
  | .add r1 rest => EncodedLength.add r1 rest
  | .sub r1 rest => EncodedLength.sub r1 rest
  | .ana r1 rest => EncodedLength.ana r1 rest
  | .xra r1 rest => EncodedLength.xra r1 rest
  | .mov r1 r2 rest => EncodedLength.mov r1 r2 rest
  | .unimpl u => EncodedLength.unimpl u

/-- Settles O3: some bytes decode to the record, and by `Decodes.encodesTo` they are those it encodes to. -/
theorem decodeOfEncodeIsIdentity : Obligations.DecodeOfEncodeIsIdentity := by
  unfold Obligations.DecodeOfEncodeIsIdentity
  refine ⟨fun i hwf => ?_, fun i bs hfetch henc rest => ?_⟩
  · obtain ⟨bs, hbs, -⟩ := encodedLength i hwf
    exact ⟨bs, hbs⟩
  · obtain ⟨bs', hdec⟩ := isDecoded_of_fetchable hfetch
    obtain ⟨bs'', ⟨-, henc'⟩, hbs⟩ := (hdec []).encodesTo
    obtain rfl : bs' = bs'' := List.append_cancel_right hbs
    obtain rfl : bs = bs' := Option.some.inj (henc.symm.trans henc')
    exact (hdec rest).decode_eq

/-! ## The tables of opcode bytes and operand bytes -/

/-- Settles O1, word by word. -/
theorem sampleWordsDecode : Obligations.SampleWordsDecode := by
  unfold Obligations.SampleWordsDecode
  exact ⟨rfl, rfl, rfl, rfl, rfl, rfl, rfl, rfl, rfl, rfl, rfl, rfl, rfl, rfl⟩

/-- Settles O2: the list against the decoder (`opcode_unimplemented_iff`), then the tag of each such byte. -/
theorem unimplementedBytesAreThoseListed : Obligations.UnimplementedBytesAreThoseListed := by
  unfold Obligations.UnimplementedBytesAreThoseListed
  exact ⟨rfl, by decide, opcode_unimplemented_iff,
    fun _ rest hb => (decodes_unimplemented hb rest).decode_eq⟩

/-- Settles O5: the operand bytes by the format's case of `Decodes`, the word by `joinBytes_toNat`. -/
theorem operandBytesAreLittleEndian : Obligations.OperandBytesAreLittleEndian := by
  unfold Obligations.OperandBytesAreLittleEndian
  intro b0 b1 b2 rest
  refine ⟨fun h => ?_, fun h => ⟨joinBytes b2 b1, joinBytes_toNat b2 b1, ?_⟩, fun h => ?_⟩
  · exact (Decodes.f2 (Prod.ext h rfl) b1).decode_eq
  · exact (Decodes.f3 (Prod.ext h rfl) b1 b2).decode_eq
  · exact (Decodes.f1 (Prod.ext h rfl)).decode_eq

end Sys2Proof
end

section
/-! Ill-formed records (spec/30_encoding.md R80, spec/40_execution_model.md R105): each check of step 4 with the
condition under which it fails, and the error it then raises with the whole record. -/

namespace Sys2Proof.Machine

variable {s : State} {i : Instr}

/-! ## Checks that fail -/

/-- A computation that cannot succeed and has one error to raise. -/
theorem eq_error_of {α : Type} {x : Except Fault α} {e : Fault} (hok : ∀ v, x ≠ .ok v)
    (herr : ∀ e', x = .error e' → e' = e) : x = .error e := by
  cases x with
  | ok v => exact absurd rfl (hok v)
  | error e' => rw [herr e' rfl]

theorem noData_fails (h : i.fields.data.isNone = false) : noData i = .error (.invalidInstructionData i) :=
  eq_error_of (fun _ hok => by simp [noData_ok hok, Payload.isNone] at h) fun _ => noData_error

theorem byteData_fails (h : i.fields.data.isD8 = false) : byteData i = .error (.invalidInstructionData i) :=
  eq_error_of (fun _ hok => by simp [byteData_ok hok, Payload.isD8] at h) fun _ => byteData_error

theorem wordData_fails (h : i.fields.data.isD16 = false) : wordData i = .error (.invalidInstructionData i) :=
  eq_error_of (fun _ hok => by simp [wordData_ok hok, Payload.isD16] at h) fun _ => wordData_error

theorem noRegs_fails (h : i.fields.r1 ≠ none ∨ i.fields.r2 ≠ none) :
    noRegs i = .error (.invalidInstructionData i) := by
  refine eq_error_of (fun _ hok => ?_) fun _ => noRegs_error
  have hregs := noRegs_ok hok
  simp_all [Fields.noRegs]

theorem oneReg_fails {allowed : Reg → Bool} (h : i.fields.r1.any allowed = false ∨ i.fields.r2 ≠ none) :
    oneReg i allowed = .error (.unsupportedRegister i) := by
  refine eq_error_of (fun r hok => ?_) fun _ => oneReg_error
  obtain ⟨h1, h2, hr⟩ := oneReg_ok hok
  simp [h1, h2, hr] at h

theorem sourceReg_sp (h : i.fields.r1 = some .sp) : sourceReg i = .error (.registerNot8Bit i) :=
  if_pos h

theorem sourceReg_fails (h : i.fields.r1 = none ∨ (i.fields.r1 ≠ some .sp ∧ i.fields.r2 ≠ none)) :
    sourceReg i = .error (.unsupportedRegister i) := by
  refine eq_error_of (fun r hok => ?_) fun e he => ?_
  · obtain ⟨h1, h2, -⟩ := sourceReg_ok hok
    simp [h1, h2] at h
  · rcases sourceReg_error he with ⟨hsp, -⟩ | he
    · simp [hsp] at h
    · exact he

theorem movRegs_sp (h : i.fields.r2 = some .sp) : movRegs i = .error (.registerNot8Bit i) :=
  if_pos h

theorem movRegs_fails (hsp : i.fields.r2 ≠ some .sp)
    (h : i.fields.r2 = none ∨ i.fields.r1.any Reg.isOperand8 = false ∨
      (i.fields.r1 = some .m ∧ i.fields.r2 = some .m)) :
    movRegs i = .error (.unsupportedRegister i) := by
  refine eq_error_of (fun p hok => ?_) fun e he => ?_
  · obtain ⟨-, -, hregs⟩ := movRegs_ok hok
    simp only [Fields.movRegs] at hregs
    rcases h with h | h | ⟨h1, h2⟩
    · simp [h] at hregs
    · simp [h] at hregs
    · simp [h1, h2] at hregs
  · exact (movRegs_error he).resolve_left fun hr => hsp hr.1

/-! ## The order of the checks -/

/-- Step 4 comes to the check `x`, those before it passing by computation, and `x` fails. -/
theorem exec_of_check_fails {α : Type} {x : Except Fault α} {e : Fault} {k : α → Result}
    (hi : exec i s = orRaise x s k) (hx : x = .error e) : exec i s = raiseError e s := by
  rw [hi, hx, orRaise_error]

/-- Settles O6: the payload's check comes first. -/
theorem wrongPayloadRaisesInvalidData : Obligations.WrongPayloadRaisesInvalidData := by
  unfold Obligations.WrongPayloadRaisesInvalidData
  intro s x y data n
  refine ⟨fun h i hi => ?_, fun h i hi => ?_, fun h i hi => ?_⟩
  · fin_cases hi <;> exact exec_of_check_fails rfl (noData_fails h)
  · fin_cases hi <;> exact exec_of_check_fails rfl (byteData_fails h)
  · fin_cases hi <;> exact exec_of_check_fails rfl (wordData_fails h)

/-- Settles O7: the payload's check passes, and the designators' check fails with its error. -/
theorem wrongDesignatorRaisesItsError : Obligations.WrongDesignatorRaisesItsError := by
  unfold Obligations.WrongDesignatorRaisesItsError
  intro s x y v w n
  refine ⟨fun h i hi => ?_, fun h => ?_, fun h i hi => ?_, fun h => ?_,
    fun i hi => ⟨fun h => ?_, fun h => ?_⟩, fun h => ?_, fun hsp h => ?_, fun h i hi => ?_⟩
  · fin_cases hi <;> exact exec_of_check_fails rfl (oneReg_fails h)
  · exact exec_of_check_fails rfl (oneReg_fails h)
  · fin_cases hi <;> exact exec_of_check_fails rfl (oneReg_fails h)
  · exact exec_of_check_fails rfl (oneReg_fails h)
  · fin_cases hi <;> exact exec_of_check_fails rfl (sourceReg_sp h)
  · fin_cases hi <;> exact exec_of_check_fails rfl (sourceReg_fails h)
  · exact exec_of_check_fails rfl (movRegs_sp h)
  · exact exec_of_check_fails rfl (movRegs_fails hsp h)
  · fin_cases hi <;> exact exec_of_check_fails rfl (noRegs_fails h)

end Sys2Proof.Machine
end

section
/-! The ALU functions and the flags model (spec/40_execution_model.md R106 to R112), function by function. -/

namespace Sys2Proof.Machine

/-! ## The rotation and the number of set bits -/

theorem rrc8_fst (a : Byte) : (rrc8 a).1 = a.rotateRight 1 := by
  have hlow : a.toNat / 2 < 2 ^ 7 := by have := a.isLt; omega
  have hcarry : a.toNat <<< 7 % 2 ^ 8 = (a.toNat % 2) <<< 7 := by
    rw [Nat.shiftLeft_eq, Nat.shiftLeft_eq]; omega
  apply BitVec.eq_of_toNat_eq
  calc (rrc8 a).1.toNat = (a.toNat % 2) <<< 7 + a.toNat / 2 := by
        rw [Nat.shiftLeft_eq]
        simp only [rrc8, BitVec.toNat_ofNat]
        omega
    _ = (a.toNat % 2) <<< 7 ||| a.toNat / 2 := Nat.shiftLeft_add_eq_or_of_lt hlow _
    _ = a.toNat / 2 ||| a.toNat <<< 7 % 2 ^ 8 := by rw [hcarry, Nat.or_comm]
    _ = (a.rotateRight 1).toNat := by rw [BitVec.toNat_rotateRight, Nat.shiftRight_eq_div_pow]

theorem rrc8_snd (a : Byte) : (rrc8 a).2 = a.getLsbD 0 := by
  rw [← BitVec.testBit_toNat, Nat.testBit_zero]; rfl

theorem popcount_eq_countP (v : Byte) : popcount v = (List.range 8).countP fun k => v.getLsbD k := by
  have hbit : ∀ n : Nat, (if n % 2 = 1 then 1 else 0) = n % 2 := fun n => by split <;> omega
  have hrange : List.range 8 = [0, 1, 2, 3, 4, 5, 6, 7] := rfl
  simp only [popcount, hrange, List.countP_cons, List.countP_nil, ← BitVec.testBit_toNat,
    Nat.testBit_eq_decide_div_mod_eq, decide_eq_true_eq, hbit, Nat.reducePow, Nat.div_one]
  ring

/-- `SetSZP` in the terms of R112. -/
theorem setSZP_eq_resultFlags (v : Byte) (f : Flags) : setSZP v f = resultFlags v f.cy := by
  have hs : decide (128 ≤ v.toNat) = v.getLsbD 7 :=
    BitVec.msb_eq_decide v ▸ BitVec.msb_eq_getLsbD_last v
  have hz : (v = 0) = (v.toNat = 0) := propext (BitVec.toNat_inj (y := 0)).symm
  simp only [setSZP, resultFlags, hs, hz, popcount_eq_countP]

/-! ## The statements -/

/-- Settles O12: the sum by `add8_fst`, the carry by definition. -/
theorem addBytes : Obligations.AddBytes := by
  unfold Obligations.AddBytes
  exact ⟨fun a b => ⟨add8_fst a b, decide_eq_true_iff⟩, rfl, rfl⟩

/-- Settles O13: the difference by `sub8_fst`, the borrow by `sub8_snd`. -/
theorem subtractBytes : Obligations.SubtractBytes := by
  unfold Obligations.SubtractBytes
  refine ⟨fun a b => ⟨sub8_fst a b, by rw [sub8_snd, decide_eq_true_eq]⟩, fun a => ?_, rfl⟩
  constructor <;> exact Prod.ext (by simp [sub8_fst]) (by simp [sub8_snd])

/-- Settles O14: the steps by definition and `dec8_eq`, the logic functions bit by bit. -/
theorem stepAndLogicBytes : Obligations.StepAndLogicBytes := by
  unfold Obligations.StepAndLogicBytes
  exact ⟨fun a => ⟨BitVec.toNat_ofNat .., BitVec.toNat_ofNat .., dec8_eq a⟩, rfl, rfl,
    fun _ _ _ _ => ⟨BitVec.getLsbD_and, BitVec.getLsbD_xor⟩⟩

/-- Settles O15: the bits of a rotation by one. -/
theorem rotateRightByte : Obligations.RotateRightByte := by
  unfold Obligations.RotateRightByte
  refine ⟨fun a => ⟨rrc8_snd a, ?_, fun k hk => ?_⟩, rfl, rfl⟩
  · rw [rrc8_fst, BitVec.getLsbD_rotateRight]; rfl
  · rw [rrc8_fst, BitVec.getLsbD_rotateRight, decide_eq_true (by omega), Nat.add_comm]; rfl

/-- Settles O16: each function as word arithmetic, the carry by definition. -/
theorem wordArithmetic : Obligations.WordArithmetic := by
  unfold Obligations.WordArithmetic
  exact ⟨fun x y => ⟨add16_fst x y, decide_eq_true_iff⟩,
    fun x => ⟨inc16_eq x, dec16_eq x⟩, rfl, rfl⟩

/-- Settles O17: `setSZP_eq_resultFlags`, and the zero byte by computation. -/
theorem flagsFromResult : Obligations.FlagsFromResult := by
  unfold Obligations.FlagsFromResult
  exact ⟨setSZP_eq_resultFlags, fun _ => rfl⟩

end Sys2Proof.Machine
end

section
/-! Which flags step 4 writes (spec/40_execution_model.md R113): one inversion lemma, `exec_flags`. -/

namespace Sys2Proof.Machine

variable {s t : State} {i : Instr}

/-! ## The shared operations leave the flags alone -/

theorem memWrite_flags {a : Word} {v : Byte} (h : memWrite s a v = .ok t) : t.flags = s.flags := by
  rw [memWrite_frame h]; rfl

theorem wr8_flags {r : Reg} {v : Byte} (h : wr8 i r v s = .ok t) : t.flags = s.flags := by
  rcases wr8_ok h with rfl | rfl | rfl | rfl | rfl | rfl | rfl | ⟨-, h⟩
  case inr.inr.inr.inr.inr.inr.inr => exact memWrite_flags h
  all_goals rfl

theorem wrRP_flags {rp : Reg} {w : Word} (h : wrRP i rp w s = .ok t) : t.flags = s.flags := by
  rcases wrRP_ok h with ⟨-, rfl⟩ | ⟨-, rfl⟩ | ⟨-, rfl⟩ | ⟨-, rfl⟩ <;> rfl

theorem push16_flags {w : Word} (h : push16 s w = .ok t) : t.flags = s.flags := by
  rw [push16_frame h]; rfl

theorem pop16_flags {p : Word × State} (h : pop16 s = .ok p) : p.2.flags = s.flags := by
  rw [(pop16_ok h).2]; rfl

theorem ioRead_flags {port : Byte} {p : Byte × State} (h : ioRead s port = .ok p) :
    p.2.flags = s.flags := by
  obtain ⟨-, -, hp⟩ := ioRead_ok h
  rw [hp]; rfl

theorem ioWrite_flags {port v : Byte} (h : ioWrite s port v = .ok t) : t.flags = s.flags := by
  rw [(ioWrite_ok h).2]; rfl

/-! ## Every instruction -/

/-- The flags an instruction can leave, with what the table of R113 says of an instruction that does so. -/
inductive FlagsWritten (i : Instr) (s t : State) : Prop where
  | kept (h : t.flags = s.flags)
  | szp (v : Byte) (hw : writesSZP i = true) (h : t.flags = setSZP v s.flags)
  | cy (c : Bool) (hw : writesCY i = true) (h : t.flags = setCY c s.flags)
  | all (v : Byte) (c : Bool) (hz : writesSZP i = true) (hc : writesCY i = true)
      (h : t.flags = setSZPC v c s.flags)

theorem FlagsWritten.raise {e : Fault} (h : raiseError e s = .next t) : FlagsWritten i s t := by
  obtain ⟨-, -, rfl⟩ := raiseError_next h
  exact .kept rfl

theorem FlagsWritten.orRaise {α : Type} {x : Except Fault α} {k : α → Result}
    (h : orRaise x s k = .next t) (hk : ∀ v, x = .ok v → k v = .next t → FlagsWritten i s t) :
    FlagsWritten i s t := by
  rcases orRaise_next h with ⟨v, hx, h⟩ | ⟨e, -, h⟩
  · exact hk v hx h
  · exact .raise h

/-- An instruction's last step, where it writes no flag. -/
theorem FlagsWritten.next {u : State} (h : Host.Outcome.next (φ := Fault) (ρ := Refusal) u = .next t)
    (hu : u.flags = s.flags) : FlagsWritten i s t := by
  cases h; exact .kept hu

theorem exec_flags (h : exec i s = .next t) : FlagsWritten i s t := by
  cases i with
  | nop | xchg | ei => exact .orRaise h fun _ _ h => .next h rfl
  | jmp => exact .orRaise h fun _ _ h => .orRaise h fun _ _ h => .next h rfl
  | jz | jnz | jnc => exact .orRaise h fun _ _ h => .orRaise h fun _ _ h => .next h (by split <;> rfl)
  | lda => exact .orRaise h fun _ _ h => .orRaise h fun _ _ h => .orRaise h fun _ _ h => .next h rfl
  | ldax =>
    exact .orRaise h fun _ _ h => .orRaise h fun _ _ h => .orRaise h fun _ _ h =>
      .orRaise h fun _ _ h => .next h rfl
  | sta =>
    exact .orRaise h fun _ _ h => .orRaise h fun _ _ h => .orRaise h fun _ hu h =>
      .next h (memWrite_flags hu)
  | lxi =>
    exact .orRaise h fun _ _ h => .orRaise h fun _ _ h => .orRaise h fun _ hu h =>
      .next h (wrRP_flags hu)
  | inx | dcx =>
    exact .orRaise h fun _ _ h => .orRaise h fun _ _ h => .orRaise h fun _ _ h =>
      .orRaise h fun _ hu h => .next h (wrRP_flags hu)
  | mvi =>
    exact .orRaise h fun _ _ h => .orRaise h fun _ _ h => .orRaise h fun _ hu h =>
      .next h (wr8_flags hu)
  | mov =>
    exact .orRaise h fun _ _ h => .orRaise h fun _ _ h => .orRaise h fun _ _ h =>
      .orRaise h fun _ hu h => .next h (wr8_flags hu)
  | push =>
    exact .orRaise h fun _ _ h => .orRaise h fun _ _ h => .orRaise h fun _ _ h =>
      .orRaise h fun _ hu h => .next h (push16_flags hu)
  | call =>
    exact .orRaise h fun _ _ h => .orRaise h fun _ _ h => .orRaise h fun _ hu h =>
      .next h (push16_flags hu :)
  | pop =>
    exact .orRaise h fun _ _ h => .orRaise h fun _ _ h => .orRaise h fun _ hp h =>
      .orRaise h fun _ hu h => .next h ((wrRP_flags hu).trans (pop16_flags hp))
  | ret => exact .orRaise h fun _ _ h => .orRaise h fun _ hp h => .next h (pop16_flags hp)
  | out =>
    exact .orRaise h fun _ _ h => .orRaise h fun _ _ h => .orRaise h fun _ hu h =>
      .next h (ioWrite_flags hu)
  | inp =>
    exact .orRaise h fun _ _ h => .orRaise h fun _ _ h => .orRaise h fun _ hp h =>
      .next h (ioRead_flags hp)
  | inr | dcr =>
    exact .orRaise h fun _ _ h => .orRaise h fun _ _ h => .orRaise h fun _ _ h =>
      .orRaise h fun _ _ h => by cases h; exact .szp _ rfl rfl
  | dad =>
    exact .orRaise h fun _ _ h => .orRaise h fun _ _ h => .orRaise h fun _ _ h => by
      cases h; exact .cy _ rfl rfl
  | rrc => exact .orRaise h fun _ _ h => by cases h; exact .cy _ rfl rfl
  | add | sub | ana | xra =>
    exact .orRaise h fun _ _ h => .orRaise h fun _ _ h => .orRaise h fun _ _ h => by
      cases h; exact .all _ _ rfl rfl rfl
  | adi | sui | ani | cpi =>
    exact .orRaise h fun _ _ h => .orRaise h fun _ _ h => by cases h; exact .all _ _ rfl rfl rfl
  | unimpl u => exact .raise (e := .unimplementedInstruction u.byte) h

/-- Settles O42: a flag that `FlagsWritten` changes is one the table lists. -/
theorem onlyListedInstructionsWriteFlags : Obligations.OnlyListedInstructionsWriteFlags := by
  unfold Obligations.OnlyListedInstructionsWriteFlags
  intro i s t h
  cases exec_flags h with
  | kept h => rw [h]; exact ⟨fun _ => ⟨rfl, rfl, rfl⟩, fun _ => rfl⟩
  | szp v hw h => rw [h, hw]; exact ⟨nofun, fun _ => rfl⟩
  | cy c hw h => rw [h, hw]; exact ⟨fun _ => ⟨rfl, rfl, rfl⟩, nofun⟩
  | all v c hz hc _ => rw [hz, hc]; exact ⟨nofun, nofun⟩

end Sys2Proof.Machine
end

section
/-! Fetching, `CYCLE` and `RUN` (spec/40_execution_model.md R100 to R104): an equation for each way through
`fetchAt`, `ordinary`, `cycle` and `runTurn`. -/

namespace Sys2Proof.Machine

variable {s t : State} {a : Word} {i rec : Instr} {bs : List Byte} {e : Fault} {rest : List PlatformMove}

/-! ## The fetch (spec/30_encoding.md R76) -/

theorem BytesAt.read (hb : BytesAt s a bs) {k : Nat} {v : Byte} (hk : bs[k]? = some v) :
    memRead s (a + BitVec.ofNat 16 k) = .ok v := by
  obtain ⟨hlt, rfl⟩ := List.getElem?_eq_some_iff.mp hk
  exact hb k hlt

/-- Bytes in memory that decode to a record are fetched as it. -/
theorem fetchAt_of_decodes (hd : Decodes [] bs rec) (hb : BytesAt s a bs) : fetchAt s a = .ok rec := by
  have h0 : ∀ {v}, bs[0]? = some v → memRead s a = .ok v := fun h => by simpa using hb.read h
  have h1 : ∀ {v}, bs[1]? = some v → memRead s (a + 1) = .ok v := hb.read
  have h2 : ∀ {v}, bs[2]? = some v → memRead s (a + 2) = .ok v := hb.read
  unfold fetchAt
  cases hd with
  | f1 h | unimplemented h => simp only [h0 rfl, assemble, h]
  | f2 h v => simp only [h0 rfl, h1 rfl, assemble, h]
  | f3 h lo hi => simp only [h0 rfl, h1 rfl, h2 rfl, assemble, h]

/-- A record that `DECODE` can return is what its bytes are fetched as. -/
theorem fetchAt_of_encode (hf : i.fetchable = true) (he : encode i = some bs) (hb : BytesAt s a bs) :
    fetchAt s a = .ok i := by
  have hd : decode (bs ++ []) = .ok (i, []) := decodeOfEncodeIsIdentity.2 i bs hf he []
  rw [List.append_nil] at hd
  exact fetchAt_of_decodes (decodes_of_decode hd) hb

/-- An unimplemented byte is fetched whatever stands after it (log entry 10). -/
theorem fetchAt_unimplemented {b : Byte} (hb : b ∈ unimplementedBytes) (h : memRead s a = .ok b) :
    fetchAt s a = .ok (.unimpl ⟨b, .bare .none (Config.unimplLen b)⟩) := by
  refine fetchAt_of_decodes (decodes_unimplemented hb []) fun k hk => ?_
  obtain rfl : k = 0 := by simpa using hk
  simpa using h

theorem fetchAt_opcode_unmapped (h : s.classAt a = .unmapped) :
    fetchAt s a = .error (.addressFault a) := by
  unfold fetchAt
  rw [memRead_unmapped h]

theorem fetchAt_operand_unmapped {b0 : Byte} (h0 : memRead s a = .ok b0)
    (hf : (opcode b0).1 = .f2 ∨ (opcode b0).1 = .f3) (h1 : s.classAt (a + 1) = .unmapped) :
    fetchAt s a = .error (.addressFault (a + 1)) := by
  unfold fetchAt
  rcases hf with hf | hf <;> simp only [h0, hf, memRead_unmapped h1]

theorem fetchAt_second_operand_unmapped {b0 : Byte} (h0 : memRead s a = .ok b0)
    (hf : (opcode b0).1 = .f3) (h1 : s.classAt (a + 1) ≠ .unmapped)
    (h2 : s.classAt (a + 2) = .unmapped) : fetchAt s a = .error (.addressFault (a + 2)) := by
  unfold fetchAt
  simp only [h0, hf, memRead_mapped h1, memRead_unmapped h2]

/-! ## The ordinary half of a cycle -/

theorem ordinary_past_end (h : s.params.progLen ≤ s.pc.toNat) : ordinary s = .next s :=
  if_neg (by omega)

theorem ordinary_of_fetch (h : s.pc.toNat < s.params.progLen) (hf : fetchAt s s.pc = .ok rec) :
    ordinary s = exec rec (s.setPc (s.pc + rec.fields.len.toWord)) := by
  unfold ordinary
  rw [if_pos h, hf]; rfl

/-- A fetch error is an `AddressFault`, which stops the machine under either policy (R265). -/
theorem ordinary_of_fetch_error (h : s.pc.toNat < s.params.progLen) (hf : fetchAt s s.pc = .error e) :
    ordinary s = .fault e := by
  obtain ⟨b, -, rfl⟩ := fetchAt_error hf
  unfold ordinary
  rw [if_pos h, hf]; rfl

theorem ordinary_moves (h : ordinary s = .next t) : t.moves = s.moves := by
  rcases ordinary_next h with ⟨-, rfl⟩ | ⟨rec, -, -, hx⟩
  · rfl
  · exact (exec_effect hx).moves

/-! ## A cycle that accepts no interrupt -/

theorem cycle_without_interrupt (hn : s.inte = false ∨ s.pending = none) :
    cycle s = ordinary (s.setAnswer (some .ok)) := by
  unfold cycle
  rw [takeInterrupt_none (s := s.setAnswer (some .ok)) hn]

theorem cycle_past_end (hn : s.inte = false ∨ s.pending = none) (h : s.params.progLen ≤ s.pc.toNat) :
    cycle s = .next (s.setAnswer (some .ok)) :=
  (cycle_without_interrupt hn).trans (ordinary_past_end h)

theorem cycle_of_fetch (hn : s.inte = false ∨ s.pending = none) (h : s.pc.toNat < s.params.progLen)
    (hf : fetchAt s s.pc = .ok rec) :
    cycle s = exec rec { s with answer := some .ok, pc := s.pc + rec.fields.len.toWord } :=
  (cycle_without_interrupt hn).trans (ordinary_of_fetch (s := s.setAnswer (some .ok)) h hf)

theorem cycle_of_fetch_error (hn : s.inte = false ∨ s.pending = none)
    (h : s.pc.toNat < s.params.progLen) (hf : fetchAt s s.pc = .error e) : cycle s = .fault e :=
  (cycle_without_interrupt hn).trans (ordinary_of_fetch_error (s := s.setAnswer (some .ok)) h hf)

/-! ## A cycle that accepts an interrupt (spec/60_exceptions.md R272, R273) -/

/-- The state that an accepted interrupt instruction's operation sees. -/
def State.interrupted (s : State) : State :=
  { s with answer := some .ok, pending := none, inte := false }

section
variable (hi : s.inte = true) (hp : s.pending = some rec)
include hi hp

theorem takeInterrupt_accepts : takeInterrupt s = some (rec, s.setPending none) := by
  unfold takeInterrupt consume
  rw [if_pos hi, hp]

theorem cycle_interrupt_next (hx : exec rec s.interrupted = .next t) :
    cycle s = if t.failed then .next t else ordinary t := by
  have hrec : execRecord rec true ((s.setAnswer (some .ok)).setPending none) = .next t := hx
  unfold cycle
  simp only [takeInterrupt_accepts (s := s.setAnswer (some .ok)) hi hp, hrec]

theorem cycle_interrupt_fault (hx : exec rec s.interrupted = .fault e) : cycle s = .fault e := by
  have hrec : execRecord rec true ((s.setAnswer (some .ok)).setPending none) = .fault e := hx
  unfold cycle
  simp only [takeInterrupt_accepts (s := s.setAnswer (some .ok)) hi hp, hrec]

/-- The error of an interrupt instruction is the outcome of its cycle: no ordinary instruction follows. -/
theorem cycle_interrupt_raise (hx : exec rec s.interrupted = raiseError e s.interrupted) :
    cycle s = raiseError e s.interrupted := by
  cases hr : raiseError e s.interrupted with
  | next t =>
    rw [cycle_interrupt_next hi hp (hx.trans hr)]
    obtain ⟨-, -, rfl⟩ := raiseError_next hr
    rw [if_pos (failed_setAnswer_error _ e)]
  | fault e' => exact cycle_interrupt_fault hi hp (hx.trans hr)
  | refused r => exact absurd hr raiseError_ne_refused

end

theorem cycle_moves (h : cycle s = .next t) : t.moves = s.moves := by
  rcases cycle_next h with ⟨-, ho⟩ | ⟨rec, u, -, -, hx, hu⟩
  · exact (ordinary_moves ho :)
  · have hmoves : u.moves = s.moves := (exec_effect hx).moves
    rcases hu with ⟨-, rfl⟩ | ⟨-, ho⟩
    · exact hmoves
    · exact (ordinary_moves ho).trans hmoves

/-! ## Steps and turns of a run -/

/-- A step whose move is a cycle is that cycle, with the moves after it left. -/
theorem step_eq_cycle (h : s.CycleNext) : step s = cycle (s.setMoves s.moves.tail) := by
  have hsame : s.setMoves s.moves = s := rfl
  unfold step platformStep
  rcases h with hm | ⟨rest, hm⟩
  · rw [hm] at hsame ⊢
    exact congrArg cycle hsame.symm
  · rw [hm]; rfl

theorem step_eq_runTurn (h : s.moves = .run :: rest) : step s = runTurn rest s := by
  unfold step platformStep
  rw [h]

theorem runTurn_past_end (h : s.params.progLen ≤ s.pc.toNat) :
    runTurn rest s = .next ((s.setMoves rest).setAnswer (some .ended)) :=
  if_neg (by omega)

theorem runTurn_of_cycle_next (h : s.pc.toNat < s.params.progLen) (hc : cycle s = .next t) :
    runTurn rest s = .next (if t.failed then t.setMoves rest else t) := by
  unfold runTurn
  rw [if_pos h, hc]

theorem runTurn_of_cycle_fault (h : s.pc.toNat < s.params.progLen) (hc : cycle s = .fault e) :
    runTurn rest s = .fault e := by
  unfold runTurn
  rw [if_pos h, hc]

theorem failed_iff : s.failed = true ↔ ∃ e, s.answer = some (.error e) := by
  unfold State.failed
  split <;> simp_all

/-! ## Lengths and errors -/

theorem len_of_fetchable (hf : i.fetchable = true) : i.fields.len = i.decodedLen :=
  of_decide_eq_true (Bool.and_eq_true_iff.mp (Bool.and_eq_true_iff.mp hf).1).2

theorem byteCount_of_ne_unimpl (hi : ∀ u, i ≠ .unimpl u) :
    Laws.byteCount i = i.decodedLen.toWord.toNat := by
  cases i with
  | unimpl u => exact absurd rfl (hi u)
  | _ => rfl

/-- The length of an implemented record is the number of its bytes. -/
theorem len_toWord_eq_length (hf : i.fetchable = true) (he : encode i = some bs) (hi : ∀ u, i ≠ .unimpl u) :
    i.fields.len.toWord = BitVec.ofNat 16 bs.length := by
  obtain ⟨bs', he', hlen⟩ := encodedLength i (Instr.wf_of_fetchable hf)
  obtain rfl : bs = bs' := Option.some.inj (he.symm.trans he')
  rw [hlen, byteCount_of_ne_unimpl hi, len_of_fetchable hf, BitVec.ofNat_toNat, BitVec.setWidth_eq]

theorem exec_unimpl (u : UnimplRest) (s : State) :
    exec (.unimpl u) s = raiseError (.unimplementedInstruction u.byte) s := rfl

/-- What a recoverable error comes to under each policy (R102). -/
theorem outcomes_of_raise {r : Result} (hr : r = raiseError e t) (he : e.terminal = false) :
    (t.params.errorPolicy = .proceed → r = .next (t.setAnswer (some (.error e)))) ∧
      (t.params.errorPolicy = .halt → r = .fault e) :=
  ⟨fun hpol => hr.trans (raiseError_proceed hpol he), fun hpol => hr.trans (raiseError_halt hpol)⟩

/-! ## The statements -/

/-- Settles O46: the bytes are fetched as the record (`fetchAt_of_encode`), which the cycle then executes. -/
theorem stepRunsDecodedInstruction : Obligations.StepRunsDecodedInstruction := by
  unfold Obligations.StepRunsDecodedInstruction
  intro s i bs hf he hb hpc hn
  have hfetch := fetchAt_of_encode hf he hb
  refine ⟨len_toWord_eq_length hf he, cycle_of_fetch hn hpc hfetch, fun hc => ?_⟩
  rw [step_eq_cycle hc]
  exact cycle_of_fetch (s := s.setMoves s.moves.tail) hn hpc hfetch

/-- Settles O47: the outcome of the interrupt instruction decides between the cycle's end and its ordinary
half. -/
theorem cycleServesPendingInterruptFirst : Obligations.CycleServesPendingInterruptFirst := by
  unfold Obligations.CycleServesPendingInterruptFirst
  intro s rec hi hp
  refine ⟨step_eq_cycle, fun t hx => ?_, fun e hx => cycle_interrupt_fault hi hp hx⟩
  have hcycle := cycle_interrupt_next hi hp hx
  have hgoesOn : t.answer = some .ok → cycle s = ordinary t := fun ha => by
    rw [hcycle, if_neg (by simp [failed_iff, ha])]
  refine ⟨fun e ha => ?_, fun ha hpc => ?_, fun ha hpc i bs hf he hb => ?_⟩
  · rw [hcycle, if_pos (failed_iff.mpr ⟨e, ha⟩)]
  · rw [hgoesOn ha, ordinary_past_end hpc]
  · rw [hgoesOn ha, ordinary_of_fetch hpc (fetchAt_of_encode hf he hb)]; rfl

/-- Settles O50: one turn of the run, whose cycle leaves the moves alone (`cycle_moves`). -/
theorem runEndsAtProgramEnd : Obligations.RunEndsAtProgramEnd := by
  unfold Obligations.RunEndsAtProgramEnd
  intro s rest hm
  rw [step_eq_runTurn hm]
  refine ⟨runTurn_past_end, fun hpc => ⟨fun t hc => ⟨fun e ha => ?_, fun ha => ⟨?_, ?_⟩⟩,
    fun e => runTurn_of_cycle_fault hpc⟩⟩
  · rw [runTurn_of_cycle_next hpc hc, if_pos (failed_iff.mpr ⟨e, ha⟩)]; rfl
  · rw [runTurn_of_cycle_next hpc hc, if_neg (by simp [failed_iff, ha])]
  · rw [cycle_moves hc, hm]

/-- Settles O51: the cycle past the end, and the three bytes a fetch may miss. -/
theorem cycleOutsideProgramOrMemory : Obligations.CycleOutsideProgramOrMemory := by
  unfold Obligations.CycleOutsideProgramOrMemory
  intro s hc hn
  have hstep := step_eq_cycle hc
  have hfault : ∀ {e}, s.pc.toNat < s.params.progLen → fetchAt s s.pc = .error e → step s = .fault e :=
    fun hpc hf => hstep.trans (cycle_of_fetch_error (s := s.setMoves s.moves.tail) hn hpc hf)
  exact ⟨fun hpc => hstep.trans (cycle_past_end (s := s.setMoves s.moves.tail) hn hpc),
    fun hpc h0 => hfault hpc (fetchAt_opcode_unmapped h0),
    fun b0 hpc h0 => ⟨fun hf h1 => hfault hpc (fetchAt_operand_unmapped h0 (.inl hf) h1),
      fun hf h1 => hfault hpc (fetchAt_operand_unmapped h0 (.inr hf) h1),
      fun hf h1 h2 => hfault hpc (fetchAt_second_operand_unmapped h0 hf h1 h2)⟩⟩

/-- Settles O52: either kind of instruction ends its step by raising the error, which the policy decides. -/
theorem failedInstructionIsSkippedOrLost : Obligations.FailedInstructionIsSkippedOrLost := by
  unfold Obligations.FailedInstructionIsSkippedOrLost
  intro s b u hc
  have hstep := step_eq_cycle hc
  constructor
  · intro hb hn hpc h0
    have hraise := hstep.trans
      (cycle_of_fetch (s := s.setMoves s.moves.tail) hn hpc (fetchAt_unimplemented hb h0))
    rw [exec_unimpl] at hraise
    exact (outcomes_of_raise hraise rfl :)
  · intro hi hp
    have hraise := hstep.trans
      (cycle_interrupt_raise (s := s.setMoves s.moves.tail) hi hp (exec_unimpl u _))
    exact (outcomes_of_raise hraise rfl :)

end Sys2Proof.Machine
end

section
/-! Data transfer and the stack (spec/41_data_transfer.md R140 to R148): the push and the pop with what each
leaves and where each fails, then an equation for each instruction whose checks pass, and the statements from
these. -/

namespace Sys2Proof.Machine

variable {s t : State} {i : Instr} {a : Word}

/-! ## Going on after a part of an instruction -/

theorem orRaise_of_ok {α : Type} {x : Except Fault α} {v : α} {k : α → Result} (h : x = .ok v) :
    orRaise x s k = k v := by
  rw [h, orRaise_ok]

/-- An unmapped address stops the machine under either policy (R265). -/
theorem orRaise_addressFault {α : Type} {x : Except Fault α} {k : α → Result}
    (h : x = .error (.addressFault a)) : orRaise x s k = .fault (.addressFault a) := by
  rw [h, orRaise_error, raiseError_terminal rfl]

/-- The check of one designator passes on a record that has it, allowed, and no other. -/
theorem oneReg_passes {allowed : Reg → Bool} {r : Reg} (h1 : i.fields.r1 = some r)
    (h2 : i.fields.r2 = none) (hr : allowed r = true) : oneReg i allowed = .ok r := by
  unfold oneReg
  rw [h1, h2]
  exact if_pos hr

/-- The check of `MOV` passes on two byte operands of which at most one is `M`. -/
theorem movRegs_passes {dst src : Reg} (h1 : i.fields.r1 = some dst) (h2 : i.fields.r2 = some src)
    (hd : dst.isOperand8 = true) (hs : src.isOperand8 = true) (hm : ¬(dst = .m ∧ src = .m)) :
    movRegs i = .ok (dst, src) := by
  have hsp : some src ≠ some .sp := by rintro ⟨⟩; cases hs
  unfold movRegs
  rw [h1, h2, if_neg hsp]
  exact if_pos (by simpa [hd, imp_iff_not_or] using hm)

/-! ## Byte operands -/

/-- Reading a byte register never fails; only `M` can (R26). -/
theorem rd8_total {r : Reg} (hr : r.isOperand8 = true) (hm : r ≠ .m) (i : Instr) (s : State) :
    ∃ v, rd8 i r s = .ok v := by
  cases r
  case m => exact absurd rfl hm
  case sp => cases hr
  all_goals exact ⟨_, rfl⟩

/-- An 8-bit write that succeeds names a byte operand. -/
theorem isOperand8_of_wr8 {r : Reg} {v : Byte} (h : wr8 i r v s = .ok t) : r.isOperand8 = true := by
  cases r
  case sp => cases h
  all_goals rfl

/-! ## Pairs written from two bytes -/

theorem setBc_joinBytes (s : State) (hi lo : Byte) :
    s.setBc (joinBytes hi lo) = { s with b := hi, c := lo } := by
  unfold State.setBc
  rw [hiByte_joinBytes, loByte_joinBytes]
  rfl

theorem setDe_joinBytes (s : State) (hi lo : Byte) :
    s.setDe (joinBytes hi lo) = { s with d := hi, e := lo } := by
  unfold State.setDe
  rw [hiByte_joinBytes, loByte_joinBytes]
  rfl

theorem setHl_joinBytes (s : State) (hi lo : Byte) :
    s.setHl (joinBytes hi lo) = { s with h := hi, l := lo } := by
  unfold State.setHl
  rw [hiByte_joinBytes, loByte_joinBytes]
  rfl

/-! ## One byte stored -/

theorem memWrite_mapped (h : s.classAt a ≠ .unmapped) (v : Byte) : ∃ t, memWrite s a v = .ok t := by
  cases hc : s.classAt a with
  | rw => exact ⟨_, memWrite_rw hc⟩
  | ro => exact ⟨_, memWrite_ro hc⟩
  | unmapped => exact absurd hc h

theorem memWrite_storedByte {v : Byte} (hwf : s.mem.wf = true) (h : memWrite s a v = .ok t) :
    StoredByte s a v t := by
  refine ⟨fun hrw => memRead_memWrite_same hwf hrw h, fun b hb => ?_⟩
  have he := Effect.memWrite h
  have hbyte : SameByte b s t := by
    by_cases hba : b = a
    · subst hba
      exact he.outside b (hb.resolve_left fun hne => hne rfl)
    · exact .memWrite h hba
  exact hbyte.memRead he.params

/-! ## The push -/

/-- The two bytes of a push have different addresses, `SP` modulo 2^16. -/
theorem sub_one_ne_sub_two (w : Word) : w - 1 ≠ w - 2 := by bv_omega

theorem push16_first_unmapped {w : Word} (h : s.classAt (s.sp - 1) = .unmapped) :
    push16 s w = .error (.addressFault (s.sp - 1)) := by
  unfold push16
  rw [memWrite_unmapped h]

theorem push16_second_unmapped {w : Word} (h1 : s.classAt (s.sp - 1) ≠ .unmapped)
    (h2 : s.classAt (s.sp - 2) = .unmapped) : push16 s w = .error (.addressFault (s.sp - 2)) := by
  obtain ⟨u, hu⟩ := memWrite_mapped h1 (hiByte w)
  have hclass : u.classAt (s.sp - 2) = .unmapped := (classAt_congr (Effect.memWrite hu).params _).trans h2
  simp only [push16, hu, memWrite_unmapped hclass]

theorem push16_mapped (h1 : s.classAt (s.sp - 1) ≠ .unmapped) (h2 : s.classAt (s.sp - 2) ≠ .unmapped)
    (w : Word) : ∃ t, push16 s w = .ok t := by
  obtain ⟨u, hu⟩ := memWrite_mapped h1 (hiByte w)
  have hclass : u.classAt (s.sp - 2) ≠ .unmapped :=
    classAt_congr (Effect.memWrite hu).params (s.sp - 2) ▸ h2
  obtain ⟨u', hu'⟩ := memWrite_mapped hclass (loByte w)
  exact ⟨u'.setSp (s.sp - 2), by simp only [push16, hu, hu']⟩

/-- A read/write address below `SP` holds the high byte after a push; the second store does not reach it. -/
theorem memRead_push16_hi {w : Word} (hwf : s.mem.wf = true) (hrw : s.classAt (s.sp - 1) = .rw)
    (h : push16 s w = .ok t) : memRead t (s.sp - 1) = .ok (hiByte w) := by
  obtain ⟨s1, s2, h1, h2, rfl⟩ := push16_ok h
  calc memRead s2 (s.sp - 1) = memRead s1 (s.sp - 1) :=
        (SameByte.memWrite h2 (sub_one_ne_sub_two s.sp)).memRead (Effect.memWrite h2).params
    _ = .ok (hiByte w) := memRead_memWrite_same hwf hrw h1

theorem memRead_push16_lo {w : Word} (hwf : s.mem.wf = true) (hrw : s.classAt (s.sp - 2) = .rw)
    (h : push16 s w = .ok t) : memRead t (s.sp - 2) = .ok (loByte w) := by
  obtain ⟨s1, s2, h1, h2, rfl⟩ := push16_ok h
  have he := Effect.memWrite h1
  have hclass : s1.classAt (s.sp - 2) = .rw := (classAt_congr he.params _).trans hrw
  have hlo : memRead s2 (s.sp - 2) = .ok (loByte w) := memRead_memWrite_same (he.wf hwf) hclass h2
  exact hlo

theorem push16_storedOnStack {w : Word} (hwf : s.mem.wf = true) (h : push16 s w = .ok t) :
    StoredOnStack s w t := by
  unfold StoredOnStack
  rw [← hiByte_eq_ofNat, ← loByte_eq_ofNat]
  refine ⟨fun hrw => memRead_push16_hi hwf hrw h, fun hrw => memRead_push16_lo hwf hrw h, fun b hb => ?_⟩
  have he := Effect.push h
  have hbyte : SameByte b s t := hb.elim (fun hne => .push h (by simpa using hne)) (he.outside b)
  exact hbyte.memRead he.params

/-! ## The pop -/

theorem pop16_first_unmapped (h : s.classAt s.sp = .unmapped) :
    pop16 s = .error (.addressFault s.sp) := by
  unfold pop16 memRead16
  rw [memRead_unmapped h]

theorem pop16_second_unmapped (h1 : s.classAt s.sp ≠ .unmapped) (h2 : s.classAt (s.sp + 1) = .unmapped) :
    pop16 s = .error (.addressFault (s.sp + 1)) := by
  unfold pop16 memRead16
  rw [memRead_mapped h1, memRead_unmapped h2]

theorem pop16_of_reads {lo hi : Byte} (hlo : memRead s s.sp = .ok lo)
    (hhi : memRead s (s.sp + 1) = .ok hi) : pop16 s = .ok (joinBytes hi lo, s.setSp (s.sp + 2)) := by
  unfold pop16
  rw [memRead16_of_reads hlo hhi]

/-- A pop takes back the word just pushed, and `SP` is where it was before the push (V4). -/
theorem pop16_push16 {w : Word} (hwf : s.mem.wf = true) (h1 : s.classAt (s.sp - 1) = .rw)
    (h2 : s.classAt (s.sp - 2) = .rw) (h : push16 s w = .ok t) : pop16 t = .ok (w, t.setSp s.sp) := by
  have hsp : t.sp = s.sp - 2 := by rw [push16_frame h]; rfl
  have hnext : t.sp + 1 = s.sp - 1 := by rw [hsp]; bv_omega
  have hback : t.sp + 2 = s.sp := by rw [hsp, BitVec.sub_add_cancel]
  have hlo : memRead t t.sp = .ok (loByte w) := hsp ▸ memRead_push16_lo hwf h2 h
  have hhi : memRead t (t.sp + 1) = .ok (hiByte w) := hnext ▸ memRead_push16_hi hwf h1 h
  rw [pop16_of_reads hlo hhi, joinBytes_split, hback]

/-! ## What is left of an instruction when its checks pass -/

section

variable {r dst src : Reg} {v : Byte} {w : Word} {n : Len}

theorem exec_ldax (hr : r.isIndexOperand = true)
    (hrp : rdRP (.ldax (some r) (.bare .none n)) r s = .ok w) :
    exec (.ldax (some r) (.bare .none n)) s = orRaise (memRead s w) s fun v => .next (s.setA v) :=
  calc exec (.ldax (some r) (.bare .none n)) s
    _ = orRaise (oneReg (.ldax (some r) (.bare .none n)) Reg.isIndexOperand) s _ := rfl
    _ = orRaise (rdRP (.ldax (some r) (.bare .none n)) r s) s _ := orRaise_of_ok (oneReg_passes rfl rfl hr)
    _ = _ := orRaise_of_ok hrp

theorem exec_lda :
    exec (.lda (.bare (.d16 w) n)) s = orRaise (memRead s w) s fun v => .next (s.setA v) := rfl

theorem exec_sta : exec (.sta (.bare (.d16 w) n)) s = orRaise (memWrite s w s.a) s .next := rfl

theorem exec_mov (hd : dst.isOperand8 = true) (hs : src.isOperand8 = true) (hm : ¬(dst = .m ∧ src = .m)) :
    exec (.mov (some dst) (some src) ⟨.none, n⟩) s =
      orRaise (rd8 (.mov (some dst) (some src) ⟨.none, n⟩) src s) s fun v =>
        orRaise (wr8 (.mov (some dst) (some src) ⟨.none, n⟩) dst v s) s .next :=
  calc exec (.mov (some dst) (some src) ⟨.none, n⟩) s
    _ = orRaise (movRegs (.mov (some dst) (some src) ⟨.none, n⟩)) s _ := rfl
    _ = _ := orRaise_of_ok (movRegs_passes rfl rfl hd hs hm)

theorem exec_mvi (hr : r.isOperand8 = true) :
    exec (.mvi (some r) (.bare (.d8 v) n)) s =
      orRaise (wr8 (.mvi (some r) (.bare (.d8 v) n)) r v s) s .next :=
  calc exec (.mvi (some r) (.bare (.d8 v) n)) s
    _ = orRaise (oneReg (.mvi (some r) (.bare (.d8 v) n)) Reg.isOperand8) s _ := rfl
    _ = _ := orRaise_of_ok (oneReg_passes rfl rfl hr)

theorem exec_push (hr : r.isStackOperand = true)
    (hrp : rdRP (.push (some r) (.bare .none n)) r s = .ok w) :
    exec (.push (some r) (.bare .none n)) s = orRaise (push16 s w) s .next :=
  calc exec (.push (some r) (.bare .none n)) s
    _ = orRaise (oneReg (.push (some r) (.bare .none n)) Reg.isStackOperand) s _ := rfl
    _ = orRaise (rdRP (.push (some r) (.bare .none n)) r s) s _ := orRaise_of_ok (oneReg_passes rfl rfl hr)
    _ = _ := orRaise_of_ok hrp

theorem exec_pop (hr : r.isStackOperand = true) :
    exec (.pop (some r) (.bare .none n)) s =
      orRaise (pop16 s) s fun p => orRaise (wrRP (.pop (some r) (.bare .none n)) r p.1 p.2) s .next :=
  calc exec (.pop (some r) (.bare .none n)) s
    _ = orRaise (oneReg (.pop (some r) (.bare .none n)) Reg.isStackOperand) s _ := rfl
    _ = _ := orRaise_of_ok (oneReg_passes rfl rfl hr)

/-- A pop into a pair ends in the write of the pair, once the popped word is known. -/
theorem exec_pop_of_pop16 {u : State} (hr : r.isStackOperand = true) (hp : pop16 s = .ok (w, u))
    (hw : wrRP (.pop (some r) (.bare .none n)) r w u = .ok t) :
    exec (.pop (some r) (.bare .none n)) s = .next t := by
  rw [exec_pop hr, orRaise_of_ok hp, orRaise_of_ok hw]

theorem exec_xchg {x y : Option Reg} :
    exec (.xchg ⟨x, y, .none, n⟩) s = .next { s with d := s.h, e := s.l, h := s.d, l := s.e } :=
  calc exec (.xchg ⟨x, y, .none, n⟩) s
    _ = .next ((s.setHl (joinBytes s.d s.e)).setDe (joinBytes s.h s.l)) := rfl
    _ = _ := by rw [setHl_joinBytes, setDe_joinBytes]

end

/-! ## The statements -/

/-- Settles O20: the word pushed is the one popped, and writing a pair leaves `SP` alone. -/
theorem popAfterPushRestores : Obligations.PopAfterPushRestores := by
  unfold Obligations.PopAfterPushRestores
  intro s r q n m hr hq hwf h1 h2
  obtain ⟨v, hv⟩ := rdRP_total (Laws.operand16_of_stack r hr) (.push (some r) (.bare .none n)) s
  obtain ⟨t, ht⟩ := push16_mapped (by rw [h1]; decide) (by rw [h2]; decide) v
  have hpop := pop16_push16 hwf h1 h2 ht
  obtain ⟨u, hu⟩ :=
    wrRP_total (Laws.operand16_of_stack q hq) (.pop (some q) (.bare .none m)) v (t.setSp s.sp)
  have hq_ne_sp : q ≠ .sp := by rintro rfl; cases hq
  exact ⟨t, u, v, (exec_push hr hv).trans (orRaise_of_ok ht), exec_pop_of_pop16 hq hpop hu, hv,
    rdRP_wrRP hu, (wrRP_frame hu).1 hq_ne_sp⟩

/-- Settles O23: each instruction is its one memory access, which completes or faults. -/
theorem accumulatorLoadsAndStore : Obligations.AccumulatorLoadsAndStore := by
  unfold Obligations.AccumulatorLoadsAndStore
  intro s addr v n
  have hindex : ∀ r ∈ [Reg.b, .d], r.isIndexOperand = true := by decide
  refine ⟨fun r hr hrp hv => ?_, fun r hr hrp hu => ?_, fun hv => ?_, fun hu => ?_, fun hwf hmapped => ?_,
    fun hu => ?_⟩
  · exact (exec_ldax (hindex r hr) hrp).trans (orRaise_of_ok hv)
  · exact (exec_ldax (hindex r hr) hrp).trans (orRaise_addressFault (memRead_unmapped hu))
  · exact exec_lda.trans (orRaise_of_ok hv)
  · exact exec_lda.trans (orRaise_addressFault (memRead_unmapped hu))
  · obtain ⟨t, ht⟩ := memWrite_mapped hmapped s.a
    exact ⟨t, exec_sta.trans (orRaise_of_ok ht), memWrite_frame ht, memWrite_storedByte hwf ht⟩
  · exact exec_sta.trans (orRaise_addressFault (memWrite_unmapped hu))

/-- Settles O24: `MOV` faults at its read where the source is `M`, else at its write. -/
theorem movAndMviCopy : Obligations.MovAndMviCopy := by
  unfold Obligations.MovAndMviCopy
  intro s t dst src v n
  refine ⟨fun hd hs hm hv ht => ?_, fun hd hs hm hM hu => ?_, fun ht => ?_, fun hu => ?_⟩
  · rw [exec_mov hd hs hm, orRaise_of_ok hv, orRaise_of_ok ht]
  · rw [exec_mov hd hs hm]
    by_cases hsrc : src = .m
    · subst hsrc
      exact orRaise_addressFault (memRead_unmapped hu)
    · obtain rfl := hM.resolve_right hsrc
      obtain ⟨v, hv⟩ := rd8_total hs hsrc (.mov (some .m) (some src) ⟨.none, n⟩) s
      rw [orRaise_of_ok hv]
      exact orRaise_addressFault (memWrite_unmapped hu)
  · rw [exec_mvi (isOperand8_of_wr8 ht), orRaise_of_ok ht]
  · exact (exec_mvi rfl).trans (orRaise_addressFault (memWrite_unmapped hu))

/-- Settles O26: the instruction is a push of the pair, whose two stores complete or fault in order. -/
theorem pushStoresPair : Obligations.PushStoresPair := by
  unfold Obligations.PushStoresPair
  intro s r v n hr hv
  have hexec := exec_push hr hv
  refine ⟨fun hwf h1 h2 => ?_, fun h1 => ?_, fun h1 h2 => ?_⟩
  · obtain ⟨t, ht⟩ := push16_mapped h1 h2 v
    exact ⟨t, hexec.trans (orRaise_of_ok ht), push16_frame ht, push16_storedOnStack hwf ht⟩
  · exact hexec.trans (orRaise_addressFault (push16_first_unmapped h1))
  · exact hexec.trans (orRaise_addressFault (push16_second_unmapped h1 h2))

/-- Settles O27: the instruction is a pop into the pair, whose two reads complete or fault in order. -/
theorem popLoadsPair : Obligations.PopLoadsPair := by
  unfold Obligations.PopLoadsPair
  intro s lo hi n
  have hstack : ∀ r ∈ [Reg.b, .d, .h], r.isStackOperand = true := by decide
  refine ⟨fun hlo hhi => ?_, fun r hr => ⟨fun h1 => ?_, fun h1 h2 => ?_⟩⟩
  · have hpop := pop16_of_reads hlo hhi
    exact ⟨exec_pop_of_pop16 rfl hpop (congrArg Except.ok (setBc_joinBytes _ hi lo)),
      exec_pop_of_pop16 rfl hpop (congrArg Except.ok (setDe_joinBytes _ hi lo)),
      exec_pop_of_pop16 rfl hpop (congrArg Except.ok (setHl_joinBytes _ hi lo))⟩
  · exact (exec_pop (hstack r hr)).trans (orRaise_addressFault (pop16_first_unmapped h1))
  · exact (exec_pop (hstack r hr)).trans (orRaise_addressFault (pop16_second_unmapped h1 h2))

/-- Settles O22: each designator by definition, the halves of the payload as its quotient and remainder. -/
theorem lxiLoadsPair : Obligations.LxiLoadsPair := by
  unfold Obligations.LxiLoadsPair
  intro s v n
  rw [← hiByte_eq_ofNat, ← loByte_eq_ofNat]
  exact ⟨rfl, rfl, rfl, rfl⟩

/-- Settles O25: the exchange, and the exchange of the exchanged state. -/
theorem xchgSwapsPairs : Obligations.XchgSwapsPairs := by
  unfold Obligations.XchgSwapsPairs
  intro s x y n
  exact ⟨exec_xchg, exec_xchg⟩

end Sys2Proof.Machine
end

section
/-! Arithmetic (spec/42_arithmetic.md R170 to R178) and `CPI` (spec/43_logic.md R204): the results and their
flags in the spec's terms, then an equation for each instruction whose checks pass, and the statements from
these. -/

namespace Sys2Proof.Machine

variable {s t : State} {i : Instr} {r : Reg} {v : Byte} {w : Word} {n : Len}

/-! ## The checks -/

/-- A 16-bit read that succeeds names a pair or `SP`. -/
theorem isOperand16_of_rdRP (h : rdRP i r s = .ok w) : r.isOperand16 = true := by
  cases r
  case b | d | h | sp => rfl
  all_goals cases h

/-- The check of a byte operand passes on a record that has one and no other. -/
theorem sourceReg_passes (h1 : i.fields.r1 = some r) (h2 : i.fields.r2 = none) (hr : r.isOperand8 = true) :
    sourceReg i = .ok r := by
  have hsp : i.fields.r1 ≠ some .sp := by rw [h1]; rintro ⟨⟩; cases hr
  exact (if_neg hsp).trans (oneReg_passes h1 h2 hr)

/-- An instruction on one byte operand reads it when its checks pass. -/
theorem exec_of_byteOperand {k : Reg → Byte → Result}
    (hi : exec i s = orRaise (sourceReg i) s fun r => orRaise (rd8 i r s) s (k r))
    (h1 : i.fields.r1 = some r) (h2 : i.fields.r2 = none) (hr : r.isOperand8 = true) :
    exec i s = orRaise (rd8 i r s) s (k r) :=
  hi.trans (orRaise_of_ok (sourceReg_passes h1 h2 hr))

/-- An instruction on a pair or `SP` goes on with its value. -/
theorem exec_of_pairOperand {k : Reg → Word → Result}
    (hi : exec i s = orRaise (oneReg i Reg.isOperand16) s fun r => orRaise (rdRP i r s) s (k r))
    (h1 : i.fields.r1 = some r) (h2 : i.fields.r2 = none) (hv : rdRP i r s = .ok w) :
    exec i s = k r w :=
  calc exec i s
    _ = orRaise (rdRP i r s) s (k r) :=
        hi.trans (orRaise_of_ok (oneReg_passes h1 h2 (isOperand16_of_rdRP hv)))
    _ = k r w := orRaise_of_ok hv

/-! ## Results and their flags -/

theorem setSZPC_eq_resultFlags (v : Byte) (cy : Bool) (f : Flags) : setSZPC v cy f = resultFlags v cy := by
  unfold setSZPC
  rw [setSZP_eq_resultFlags]
  rfl

theorem writeAcc_add8 (s : State) (v : Byte) :
    writeAcc (add8 s.a v) s =
      { s with a := s.a + v, flags := resultFlags (s.a + v) (decide (256 ≤ s.a.toNat + v.toNat)) } := by
  unfold writeAcc
  rw [setSZPC_eq_resultFlags, add8_fst]
  rfl

theorem writeAcc_sub8 (s : State) (v : Byte) :
    writeAcc (sub8 s.a v) s =
      { s with a := s.a - v, flags := resultFlags (s.a - v) (decide (s.a.toNat < v.toNat)) } := by
  unfold writeAcc
  rw [setSZPC_eq_resultFlags, sub8_fst, sub8_snd]
  rfl

/-- A carry out of bit 15 is in neither half of the word. -/
theorem hiByte_ofNat (k : Nat) : hiByte (BitVec.ofNat 16 k) = BitVec.ofNat 8 (k / 256) := by
  apply BitVec.eq_of_toNat_eq
  simp only [hiByte_eq_ofNat, BitVec.toNat_ofNat]
  omega

theorem loByte_ofNat (k : Nat) : loByte (BitVec.ofNat 16 k) = BitVec.ofNat 8 k := by
  apply BitVec.eq_of_toNat_eq
  simp only [loByte_eq_ofNat, BitVec.toNat_ofNat]
  omega

theorem setHl_ofNat (s : State) (k : Nat) :
    s.setHl (BitVec.ofNat 16 k) = { s with h := BitVec.ofNat 8 (k / 256), l := BitVec.ofNat 8 k } := by
  unfold State.setHl
  rw [hiByte_ofNat, loByte_ofNat]
  rfl

theorem hl_toNat (s : State) : s.hl.toNat = s.h.toNat * 256 + s.l.toNat := joinBytes_toNat s.h s.l

/-! ## What is left of an instruction when its checks pass -/

theorem exec_inx (hv : rdRP (.inx (some r) (.bare .none n)) r s = .ok w) :
    exec (.inx (some r) (.bare .none n)) s =
      orRaise (wrRP (.inx (some r) (.bare .none n)) r (w + 1) s) s .next := by
  rw [exec_of_pairOperand rfl rfl rfl hv, inc16_eq]

theorem exec_dcx (hv : rdRP (.dcx (some r) (.bare .none n)) r s = .ok w) :
    exec (.dcx (some r) (.bare .none n)) s =
      orRaise (wrRP (.dcx (some r) (.bare .none n)) r (w - 1) s) s .next := by
  rw [exec_of_pairOperand rfl rfl rfl hv, dec16_eq]

theorem exec_dad (hv : rdRP (.dad (some r) (.bare .none n)) r s = .ok w) :
    exec (.dad (some r) (.bare .none n)) s =
      .next ((s.setHl (BitVec.ofNat 16 (s.hl.toNat + w.toNat))).setFlags
        { s.flags with cy := decide (65536 ≤ s.hl.toNat + w.toNat) }) :=
  exec_of_pairOperand rfl rfl rfl hv

theorem exec_inr (hr : r.isOperand8 = true) :
    exec (.inr (some r) (.bare .none n)) s =
      orRaise (rd8 (.inr (some r) (.bare .none n)) r s) s fun v =>
        orRaise (wr8 (.inr (some r) (.bare .none n)) r (v + 1) s) s fun t =>
          .next { t with flags := resultFlags (v + 1) s.flags.cy } := by
  rw [exec_of_byteOperand rfl rfl rfl hr]
  simp only [inc8_eq, setSZP_eq_resultFlags]
  rfl

theorem exec_dcr (hr : r.isOperand8 = true) :
    exec (.dcr (some r) (.bare .none n)) s =
      orRaise (rd8 (.dcr (some r) (.bare .none n)) r s) s fun v =>
        orRaise (wr8 (.dcr (some r) (.bare .none n)) r (v - 1) s) s fun t =>
          .next { t with flags := resultFlags (v - 1) s.flags.cy } := by
  rw [exec_of_byteOperand rfl rfl rfl hr]
  simp only [dec8_eq, setSZP_eq_resultFlags]
  rfl

theorem exec_add (hr : r.isOperand8 = true) :
    exec (.add (some r) (.bare .none n)) s =
      orRaise (rd8 (.add (some r) (.bare .none n)) r s) s fun v => .next (writeAcc (add8 s.a v) s) := by
  rw [exec_of_byteOperand rfl rfl rfl hr]

theorem exec_sub (hr : r.isOperand8 = true) :
    exec (.sub (some r) (.bare .none n)) s =
      orRaise (rd8 (.sub (some r) (.bare .none n)) r s) s fun v => .next (writeAcc (sub8 s.a v) s) := by
  rw [exec_of_byteOperand rfl rfl rfl hr]

theorem exec_adi : exec (.adi (.bare (.d8 v) n)) s = .next (writeAcc (add8 s.a v) s) := rfl

theorem exec_sui : exec (.sui (.bare (.d8 v) n)) s = .next (writeAcc (sub8 s.a v) s) := rfl

/-- The flags of `SUI`, with `A` as it was (R204). -/
theorem exec_cpi :
    exec (.cpi (.bare (.d8 v) n)) s =
      .next { s with flags := resultFlags (s.a - v) (decide (s.a.toNat < v.toNat)) } :=
  calc exec (.cpi (.bare (.d8 v) n)) s
    _ = .next (s.setFlags (writeAcc (sub8 s.a v) s).flags) := rfl
    _ = _ := by rw [writeAcc_sub8]; rfl

/-! ## The statements -/

/-- Settles O28: the step is a read and a write of the pair, and no such write touches a flag. -/
theorem pairStepsByOne : Obligations.PairStepsByOne := by
  unfold Obligations.PairStepsByOne
  intro s t r v n
  exact ⟨fun hv ht => ⟨(exec_inx hv).trans (orRaise_of_ok ht), wrRP_flags ht⟩,
    fun hv ht => ⟨(exec_dcx hv).trans (orRaise_of_ok ht), wrRP_flags ht⟩⟩

/-- Settles O29: the operand is read and written, then the flags; an unmapped `M` faults at its read. -/
theorem byteStepsByOne : Obligations.ByteStepsByOne := by
  unfold Obligations.ByteStepsByOne
  intro s t r v n
  refine ⟨fun hv ht => ?_, fun hv ht => ?_, fun hu => ⟨?_, ?_⟩⟩
  · rw [exec_inr (rd8_ok hv), orRaise_of_ok hv, orRaise_of_ok ht]
  · rw [exec_dcr (rd8_ok hv), orRaise_of_ok hv, orRaise_of_ok ht]
  · exact (exec_inr rfl).trans (orRaise_addressFault (memRead_unmapped hu))
  · exact (exec_dcr rfl).trans (orRaise_addressFault (memRead_unmapped hu))

/-- Settles O30: both forms write `writeAcc_add8`, in which the old carry does not occur. -/
theorem additionIntoAccumulator : Obligations.AdditionIntoAccumulator := by
  unfold Obligations.AdditionIntoAccumulator
  intro s r v n
  rw [← writeAcc_add8]
  exact ⟨fun hv => (exec_add (rd8_ok hv)).trans (orRaise_of_ok hv), exec_adi,
    fun hu => (exec_add rfl).trans (orRaise_addressFault (memRead_unmapped hu))⟩

/-- Settles O31: the two subtractions write `writeAcc_sub8`, the comparison its flags alone. -/
theorem subtractionFromAccumulator : Obligations.SubtractionFromAccumulator := by
  unfold Obligations.SubtractionFromAccumulator
  intro s r v n
  rw [← writeAcc_sub8]
  exact ⟨fun hv => (exec_sub (rd8_ok hv)).trans (orRaise_of_ok hv), exec_sui, exec_cpi,
    fun hu => (exec_sub rfl).trans (orRaise_addressFault (memRead_unmapped hu))⟩

/-- Settles O32: H:L is the number `H * 256 + L`, and the halves of the sum are its quotient and remainder. -/
theorem dadAddsPairs : Obligations.DadAddsPairs := by
  unfold Obligations.DadAddsPairs
  intro s r v n hv
  rw [exec_dad hv, setHl_ofNat, hl_toNat]
  rfl

end Sys2Proof.Machine
end

section
/-! The rotation and the logic instructions (spec/43_logic.md R200 to R203): an equation for each instruction
whose checks pass, and the statements from these. -/

namespace Sys2Proof.Machine

variable {s : State} {r : Reg} {v : Byte} {n : Len}

/-- The accumulator group in the terms of R112: no old flag occurs in the result. -/
theorem writeAcc_eq (res : Byte × Bool) (s : State) :
    writeAcc res s = { s with a := res.1, flags := resultFlags res.1 res.2 } := by
  unfold writeAcc
  rw [setSZPC_eq_resultFlags]
  rfl

/-! ## What is left of an instruction when its checks pass -/

/-- `RRC` has no check of its designators (R80). -/
theorem exec_rrc {x y : Option Reg} :
    exec (.rrc ⟨x, y, .none, n⟩) s =
      .next ((s.setA (rrc8 s.a).1).setFlags (setCY (rrc8 s.a).2 s.flags)) := rfl

theorem exec_ana (hr : r.isOperand8 = true) :
    exec (.ana (some r) (.bare .none n)) s =
      orRaise (rd8 (.ana (some r) (.bare .none n)) r s) s fun v =>
        .next (writeAcc (s.a &&& v, false) s) := by
  rw [exec_of_byteOperand rfl rfl rfl hr]
  rfl

theorem exec_xra (hr : r.isOperand8 = true) :
    exec (.xra (some r) (.bare .none n)) s =
      orRaise (rd8 (.xra (some r) (.bare .none n)) r s) s fun v =>
        .next (writeAcc (s.a ^^^ v, false) s) := by
  rw [exec_of_byteOperand rfl rfl rfl hr]
  rfl

theorem exec_ani : exec (.ani (.bare (.d8 v) n)) s = .next (writeAcc (s.a &&& v, false) s) := rfl

/-! ## The statements -/

/-- Settles O33: `rrc8` is the rotation by one with the low bit as its carry. -/
theorem rrcRotatesAccumulator : Obligations.RrcRotatesAccumulator := by
  unfold Obligations.RrcRotatesAccumulator
  intro s x y n
  rw [exec_rrc, rrc8_fst, rrc8_snd]
  rfl

/-- Settles O34: the three forms write by `writeAcc_eq` with a clear carry; an unmapped `M` faults at its
read. -/
theorem logicIntoAccumulator : Obligations.LogicIntoAccumulator := by
  unfold Obligations.LogicIntoAccumulator
  intro s r v n
  refine ⟨fun hv => ?_, fun hv => ?_, ?_, fun hu => ⟨?_, ?_⟩⟩
  · rw [exec_ana (rd8_ok hv), orRaise_of_ok hv, writeAcc_eq]
  · rw [exec_xra (rd8_ok hv), orRaise_of_ok hv, writeAcc_eq]
  · rw [exec_ani, writeAcc_eq]
  · exact (exec_ana rfl).trans (orRaise_addressFault (memRead_unmapped hu))
  · exact (exec_xra rfl).trans (orRaise_addressFault (memRead_unmapped hu))

end Sys2Proof.Machine
end

section
/-! The branches (spec/44_branch.md R220 to R225): an equation for each instruction whose checks pass, and the
statements from these with the push and the pop of the stack. -/

namespace Sys2Proof.Machine

variable {s u : State} {w addr : Word} {x y : Option Reg} {n : Len}

/-- A pop neither reads nor writes `PC`: with another `PC` it gives the same word and keeps that `PC`. -/
theorem pop16_setPc (h : pop16 s = .ok (w, u)) (pc' : Word) :
    pop16 (s.setPc pc') = .ok (w, u.setPc pc') := by
  obtain ⟨hread, rfl⟩ := pop16_ok h
  have hread' : memRead16 (s.setPc pc') (s.setPc pc').sp = .ok w := hread
  unfold pop16
  rw [hread']
  rfl

/-! ## What is left of an instruction when its checks pass -/

theorem exec_jmp : exec (.jmp (.bare (.d16 addr) n)) s = .next (s.setPc addr) := rfl

theorem exec_jz :
    exec (.jz (.bare (.d16 addr) n)) s = .next (if s.flags.z then s.setPc addr else s) := rfl

theorem exec_jnz :
    exec (.jnz (.bare (.d16 addr) n)) s = .next (if s.flags.z then s else s.setPc addr) := rfl

theorem exec_jnc :
    exec (.jnc (.bare (.d16 addr) n)) s = .next (if s.flags.cy then s.setPc addr else s) := rfl

theorem exec_call :
    exec (.call (.bare (.d16 addr) n)) s = orRaise (push16 s s.pc) s fun t => .next (t.setPc addr) := rfl

/-- `RET` has no check of its designators (R80). -/
theorem exec_ret :
    exec (.ret ⟨x, y, .none, n⟩) s = orRaise (pop16 s) s fun p => .next (p.2.setPc p.1) := rfl

/-! ## The statements -/

/-- Settles O21: the `RET` pops the `PC` that the `CALL` pushed, since no pop depends on `PC`. -/
theorem returnAfterCallRestores : Obligations.ReturnAfterCallRestores := by
  unfold Obligations.ReturnAfterCallRestores
  intro s target pc' x y n m hwf h1 h2
  obtain ⟨t, ht⟩ := push16_mapped (by rw [h1]; decide) (by rw [h2]; decide) s.pc
  have hpop : pop16 (t.setPc pc') = .ok (s.pc, (t.setSp s.sp).setPc pc') :=
    pop16_setPc (pop16_push16 hwf h1 h2 ht) pc'
  exact ⟨t.setPc target, ((t.setSp s.sp).setPc pc').setPc s.pc, exec_call.trans (orRaise_of_ok ht), rfl,
    exec_ret.trans (orRaise_of_ok hpop), rfl, rfl⟩

/-- Settles O36: the instruction is a push of `PC`, whose two stores complete or fault in order, and a jump. -/
theorem callPushesAndJumps : Obligations.CallPushesAndJumps := by
  unfold Obligations.CallPushesAndJumps
  intro s target n
  refine ⟨fun hwf h1 h2 => ?_, fun h1 => ?_, fun h1 h2 => ?_⟩
  · obtain ⟨t, ht⟩ := push16_mapped h1 h2 s.pc
    have hstored : StoredOnStack s s.pc t := push16_storedOnStack hwf ht
    exact ⟨t.setPc target, exec_call.trans (orRaise_of_ok ht),
      congrArg (State.setPc · target) (push16_frame ht), hstored⟩
  · exact exec_call.trans (orRaise_addressFault (push16_first_unmapped h1))
  · exact exec_call.trans (orRaise_addressFault (push16_second_unmapped h1 h2))

/-- Settles O37: the instruction is a pop into `PC`, whose two reads complete or fault in order. -/
theorem retPopsPc : Obligations.RetPopsPc := by
  unfold Obligations.RetPopsPc
  intro s lo hi x y n
  refine ⟨fun hlo hhi => ?_, fun h1 => ?_, fun h1 h2 => ?_⟩
  · rw [exec_ret, orRaise_of_ok (pop16_of_reads hlo hhi), joinBytes_eq_ofNat]
    rfl
  · exact exec_ret.trans (orRaise_addressFault (pop16_first_unmapped h1))
  · exact exec_ret.trans (orRaise_addressFault (pop16_second_unmapped h1 h2))

/-- Settles O35: each jump writes `PC` in the one of its two cases that the flag selects. -/
theorem jumpsAndTheirConditions : Obligations.JumpsAndTheirConditions := by
  unfold Obligations.JumpsAndTheirConditions
  intro s target n
  refine ⟨exec_jmp, fun hz => ?_, fun hz => ?_, fun hcy => ?_, fun hcy => ?_⟩
  · rw [exec_jz, exec_jnz, hz]
    exact ⟨rfl, rfl⟩
  · rw [exec_jz, exec_jnz, hz]
    exact ⟨rfl, rfl⟩
  · rw [exec_jnc, hcy]
    rfl
  · rw [exec_jnc, hcy]
    rfl

end Sys2Proof.Machine
end

section
/-! The port accesses, `EI` and `NOP` (spec/45_io_interrupt_control.md R240 to R243): what the I/O interface
answers for an implemented and for an absent port, an equation for each instruction whose checks pass, and the
statements from these. -/

namespace Sys2Proof.Machine

variable {s : State} {p v w : Byte} {rest : List Byte} {x y : Option Reg} {n : Len}

/-! ## The I/O interface -/

/-- The device answers with the head of its queue where there is one (log entry 4). -/
theorem portAnswer_of_inputs (h : s.inputs = w :: rest) : portAnswer s p = w := by
  unfold portAnswer
  rw [h]

theorem ioWrite_implemented (h : p ∉ s.params.io.absentWrites) :
    ioWrite s p v = .ok (s.setIoTrace (s.ioTrace ++ [.write p v])) :=
  if_neg h

theorem ioWrite_absent (h : p ∈ s.params.io.absentWrites) :
    ioWrite s p v = .error (.unsupportedPort p .write) :=
  if_pos h

theorem ioRead_implemented (h : p ∉ s.params.io.absentReads) :
    ioRead s p =
      .ok (portAnswer s p,
        (s.setInputs s.inputs.tail).setIoTrace (s.ioTrace ++ [.read p (portAnswer s p)])) :=
  if_neg h

theorem ioRead_absent (h : p ∈ s.params.io.absentReads) :
    ioRead s p = .error (.unsupportedPort p .read) :=
  if_pos h

/-! ## What is left of an instruction when its checks pass -/

theorem exec_out :
    exec (.out (.bare (.d8 p) n)) s = orRaise (ioWrite s p s.a) s fun t => .next t := rfl

theorem exec_inp :
    exec (.inp (.bare (.d8 p) n)) s = orRaise (ioRead s p) s fun q => .next (q.2.setA q.1) := rfl

/-- `EI` has no check of its designators (R80). -/
theorem exec_ei : exec (.ei ⟨x, y, .none, n⟩) s = .next (s.setInte true) := rfl

/-- `NOP` has no check of its designators (R80). -/
theorem exec_nop : exec (.nop ⟨x, y, .none, n⟩) s = .next s := rfl

/-! ## The statements -/

/-- Settles O38: the instruction is one access of the port, which completes or fails as the port is implemented
or absent; the byte read is the device's answer, the head of the queue where there is one. -/
theorem portAccesses : Obligations.PortAccesses := by
  unfold Obligations.PortAccesses
  intro s p n
  refine ⟨fun hp => ?_, fun hp => ?_, fun hp => ⟨portAnswer s p, ?_, fun w rest hin => ?_⟩, fun hp => ?_⟩
  · exact exec_out.trans (orRaise_of_ok (ioWrite_implemented hp))
  · exact exec_of_check_fails exec_out (ioWrite_absent hp)
  · exact exec_inp.trans (orRaise_of_ok (ioRead_implemented hp))
  · exact portAnswer_of_inputs hin
  · exact exec_of_check_fails exec_inp (ioRead_absent hp)

/-- Settles O39: neither instruction looks at a designator, and `EI` writes the latch alone. -/
theorem enableInterruptsAndNop : Obligations.EnableInterruptsAndNop := by
  unfold Obligations.EnableInterruptsAndNop
  intro s x y n
  exact ⟨exec_ei, exec_nop⟩

end Sys2Proof.Machine
end

section
/-! Errors and the platform's moves (spec/60_exceptions.md R260 to R270, spec/20_memory.md R59,
spec/70_reset_and_hazards.md R300): what raising an error does, an equation for each
move of the platform that is no cycle, and the errors that a well-formed record can come to. -/

namespace Sys2Proof.Machine

variable {s t : State} {i : Instr} {a : Word} {e : Fault}

/-! ## Raising an error -/

/-- `AddressFault` is the only terminal kind (R260). -/
theorem Fault.terminal_eq_false_iff : e.terminal = false ↔ ∀ a, e ≠ .addressFault a := by
  cases e <;> simp [Fault.terminal]

/-- An error that stops the machine is the one the platform sees. -/
theorem raiseError_fault {e' : Fault} (h : raiseError e s = .fault e') : e' = e := by
  unfold raiseError at h
  split at h
  · cases h; rfl
  · split at h
    · cases h; rfl
    · cases h

/-- Settles O40: `UNIMPL` is `raiseError`, whose outcome the kind and the policy decide. -/
theorem unimplementedInstructionAndErrorPolicy :
    Obligations.UnimplementedInstructionAndErrorPolicy := by
  unfold Obligations.UnimplementedInstructionAndErrorPolicy
  intro s u e
  obtain ⟨hproceed, hhalt⟩ := outcomes_of_raise (exec_unimpl u s) rfl
  refine ⟨hhalt, hproceed, ?_, raiseError_halt, fun hpol he => ?_⟩
  · rintro ⟨a, rfl⟩
    exact raiseError_terminal rfl
  · exact raiseError_proceed hpol (Fault.terminal_eq_false_iff.mpr he)

/-! ## The platform's moves -/

theorem step_generate {rec : Record} {rest : List PlatformMove} (h : s.moves = .generate rec :: rest) :
    step s = .next (generate (s.setMoves rest) rec) := by
  unfold step platformStep
  rw [h]

theorem step_poke {v : Byte} {rest : List PlatformMove} (h : s.moves = .poke a v :: rest) :
    step s = .next ((s.setMoves rest).setMem (s.mem.write a.toNat v)) := by
  unfold step platformStep
  rw [h]

theorem step_reset {rest : List PlatformMove} (h : s.moves = .reset :: rest) :
    step s = .next (warmReset (s.setMoves rest)) := by
  unfold step platformStep
  rw [h]

/-- Settles O49: each move's equation; the byte the platform writes reads back in a canonical memory. -/
theorem platformMovesBetweenCycles : Obligations.PlatformMovesBetweenCycles := by
  unfold Obligations.PlatformMovesBetweenCycles
  intro s rest rec a v
  refine ⟨step_generate, fun h hwf => ⟨_, step_poke h, rfl, ?_, fun b hb => ?_⟩,
    fun h => ⟨_, step_reset h, rfl⟩⟩
  · rw [State.setMem_mem, Memory.read_write hwf, if_pos rfl]
  · exact Memory.read_write_other s.mem v fun hab => hb (BitVec.eq_of_toNat_eq hab).symm

/-! ## The errors of a well-formed record -/

/-- An error that record `i` may raise though it is well-formed: none of the three record errors. -/
inductive WfFault (i : Instr) : Fault → Prop where
  | address (a : Word) : WfFault i (.addressFault a)
  | port (p : Byte) (d : IoDir) : WfFault i (.unsupportedPort p d)
  | unimpl {u : UnimplRest} (hi : i = .unimpl u) : WfFault i (.unimplementedInstruction u.byte)

/-- What a well-formed record `i` comes to in state `s`: a next state that reports nothing of its own, or one of
the errors of `WfFault`. -/
inductive WfOutcome (i : Instr) (s : State) : Result → Prop where
  | next {t : State} (ha : t.answer = s.answer) : WfOutcome i s (.next t)
  | raised {e : Fault} (he : WfFault i e) : WfOutcome i s (raiseError e s)

theorem WfOutcome.of_fault (h : WfOutcome i s (.fault e)) : WfFault i e := by
  generalize hr : Host.Outcome.fault e = r at h
  cases h with
  | next => cases hr
  | raised he => exact raiseError_fault hr.symm ▸ he

/-- An error that is reported, and was not before, is a recoverable one of `WfFault`. -/
theorem WfOutcome.of_error (h : WfOutcome i s (.next t)) (ht : t.answer = some (.error e))
    (hs : s.answer ≠ some (.error e)) : WfFault i e ∧ e.terminal = false := by
  generalize hr : Host.Outcome.next t = r at h
  cases h with
  | next ha =>
    cases hr
    exact absurd (ha.symm.trans ht) hs
  | raised he =>
    obtain ⟨-, hterminal, rfl⟩ := raiseError_next hr.symm
    cases ht
    exact ⟨he, hterminal⟩

theorem WfOutcome.orRaise {α : Type} {x : Except Fault α} {k : α → Result}
    (hx : ∀ e, x = .error e → WfFault i e) (hk : ∀ v, x = .ok v → WfOutcome i s (k v)) :
    WfOutcome i s (orRaise x s k) := by
  cases x with
  | ok v => exact hk v rfl
  | error e => exact .raised (hx e rfl)

/-- A part of an instruction that cannot fail, such as a check of a well-formed record. -/
theorem WfOutcome.passes {α : Type} {x : Except Fault α} {k : α → Result} (hx : ∃ v, x = .ok v)
    (hk : ∀ v, x = .ok v → WfOutcome i s (k v)) : WfOutcome i s (Machine.orRaise x s k) := by
  obtain ⟨v, rfl⟩ := hx
  exact hk v rfl

/-! ### The checks of the payload, and of a row without designators, pass -/

theorem noData_of (h : i.fields.data.isNone = true) : ∃ u, noData i = .ok u := by
  unfold noData
  cases hd : i.fields.data <;> simp_all [Payload.isNone]

theorem byteData_of (h : i.fields.data.isD8 = true) : ∃ v, byteData i = .ok v := by
  unfold byteData
  cases hd : i.fields.data <;> simp_all [Payload.isD8]

theorem wordData_of (h : i.fields.data.isD16 = true) : ∃ w, wordData i = .ok w := by
  unfold wordData
  cases hd : i.fields.data <;> simp_all [Payload.isD16]

theorem noRegs_of (h : i.fields.noRegs = true) : ∃ u, noRegs i = .ok u := ⟨(), if_pos h⟩

/-- The designators that pass the check of `MOV` are byte operands. -/
theorem movRegs_operand8 {p : Reg × Reg} (h : movRegs i = .ok p) :
    p.1.isOperand8 = true ∧ p.2.isOperand8 = true := by
  obtain ⟨h1, h2, hregs⟩ := movRegs_ok h
  simp only [Fields.movRegs, h1, h2, Option.any_some, Bool.and_eq_true] at hregs
  exact hregs.1

/-! ### The accesses of a well-formed record raise `AddressFault` and `UnsupportedPort` only -/

theorem memRead_wfFault (h : memRead s a = .error e) : WfFault i e := by
  obtain ⟨-, rfl⟩ := memRead_error h
  exact .address a

theorem memWrite_wfFault {v : Byte} (h : memWrite s a v = .error e) : WfFault i e := by
  obtain ⟨-, rfl⟩ := memWrite_error h
  exact .address a

theorem rd8_wfFault {r : Reg} (hr : r.isOperand8 = true) (h : rd8 i r s = .error e) : WfFault i e := by
  obtain ⟨rfl, -⟩ | ⟨-, -, rfl⟩ := rd8_error h
  · cases hr
  · exact .address _

theorem wr8_wfFault {r : Reg} {v : Byte} (hr : r.isOperand8 = true) (h : wr8 i r v s = .error e) :
    WfFault i e := by
  cases r
  case m => exact memWrite_wfFault h
  case sp => cases hr
  all_goals cases h

theorem push16_wfFault {w : Word} (h : push16 s w = .error e) : WfFault i e := by
  unfold push16 at h
  split at h
  · cases h; exact memWrite_wfFault ‹_›
  · split at h
    · cases h; exact memWrite_wfFault ‹_›
    · cases h

theorem memRead16_wfFault (h : memRead16 s a = .error e) : WfFault i e := by
  unfold memRead16 at h
  split at h
  · cases h; exact memRead_wfFault ‹_›
  · split at h
    · cases h; exact memRead_wfFault ‹_›
    · cases h

theorem pop16_wfFault (h : pop16 s = .error e) : WfFault i e := by
  unfold pop16 at h
  split at h
  · cases h; exact memRead16_wfFault ‹_›
  · cases h

theorem ioRead_wfFault {p : Byte} (h : ioRead s p = .error e) : WfFault i e := by
  unfold ioRead at h
  split at h
  · cases h; exact .port p .read
  · cases h

theorem ioWrite_wfFault {p v : Byte} (h : ioWrite s p v = .error e) : WfFault i e := by
  unfold ioWrite at h
  split at h
  · cases h; exact .port p .write
  · cases h

/-! ### The accesses leave the answer alone -/

theorem memWrite_answer {v : Byte} (h : memWrite s a v = .ok t) : t.answer = s.answer := by
  rw [memWrite_frame h, State.setMem_answer]

theorem wr8_answer {r : Reg} {v : Byte} (h : wr8 i r v s = .ok t) : t.answer = s.answer := by
  rcases wr8_ok h with rfl | rfl | rfl | rfl | rfl | rfl | rfl | ⟨-, h⟩
  case inr.inr.inr.inr.inr.inr.inr => exact memWrite_answer h
  all_goals rfl

theorem wrRP_answer {rp : Reg} {w : Word} (h : wrRP i rp w s = .ok t) : t.answer = s.answer := by
  rcases wrRP_ok h with ⟨-, rfl⟩ | ⟨-, rfl⟩ | ⟨-, rfl⟩ | ⟨-, rfl⟩ <;> rfl

theorem push16_answer {w : Word} (h : push16 s w = .ok t) : t.answer = s.answer := by
  rw [push16_frame h, State.setSp_answer, State.setMem_answer]

theorem pop16_answer {p : Word × State} (h : pop16 s = .ok p) : p.2.answer = s.answer := by
  rw [(pop16_ok h).2, State.setSp_answer]

theorem ioRead_answer {port : Byte} {p : Byte × State} (h : ioRead s port = .ok p) :
    p.2.answer = s.answer := by
  obtain ⟨-, -, hp⟩ := ioRead_ok h
  rw [hp, State.setIoTrace_answer, State.setInputs_answer]

theorem ioWrite_answer {port v : Byte} (h : ioWrite s port v = .ok t) : t.answer = s.answer := by
  rw [(ioWrite_ok h).2, State.setIoTrace_answer]

/-! ### Every instruction -/

/-- Step 4 of a well-formed record, by the rows of R80: its checks pass, and what is left are the accesses. -/
theorem exec_wfOutcome (h : i.wf = true) (s : State) : WfOutcome i s (exec i s) := by
  cases i with
  | unimpl u => exact .raised (.unimpl rfl)
  | nop | rrc | xchg | ei =>
    obtain ⟨-, hd⟩ := Bool.and_eq_true_iff.mp h
    exact .passes (noData_of hd) fun _ _ => .next rfl
  | ret =>
    obtain ⟨-, hd⟩ := Bool.and_eq_true_iff.mp h
    exact .passes (noData_of hd) fun _ _ => .orRaise (fun _ => pop16_wfFault) fun _ hp =>
      .next (pop16_answer hp)
  | lxi =>
    obtain ⟨hr, hd⟩ := Bool.and_eq_true_iff.mp h
    exact .passes (wordData_of hd) fun _ _ => .passes (oneReg_of hr) fun _ hrp =>
      .passes (wrRP_total (oneReg_ok hrp).2.2 _ _ _) fun _ hu => .next (wrRP_answer hu)
  | inx | dcx =>
    obtain ⟨hr, hd⟩ := Bool.and_eq_true_iff.mp h
    exact .passes (noData_of hd) fun _ _ => .passes (oneReg_of hr) fun _ hrp =>
      .passes (rdRP_total (oneReg_ok hrp).2.2 _ _) fun _ _ =>
      .passes (wrRP_total (oneReg_ok hrp).2.2 _ _ _) fun _ hu => .next (wrRP_answer hu)
  | dad =>
    obtain ⟨hr, hd⟩ := Bool.and_eq_true_iff.mp h
    exact .passes (noData_of hd) fun _ _ => .passes (oneReg_of hr) fun _ hrp =>
      .passes (rdRP_total (oneReg_ok hrp).2.2 _ _) fun _ _ => .next rfl
  | ldax =>
    obtain ⟨hr, hd⟩ := Bool.and_eq_true_iff.mp h
    exact .passes (noData_of hd) fun _ _ => .passes (oneReg_of hr) fun rp hrp =>
      .passes (rdRP_total (Laws.operand16_of_index rp (oneReg_ok hrp).2.2) _ _) fun _ _ =>
      .orRaise (fun _ => memRead_wfFault) fun _ _ => .next rfl
  | push =>
    obtain ⟨hr, hd⟩ := Bool.and_eq_true_iff.mp h
    exact .passes (noData_of hd) fun _ _ => .passes (oneReg_of hr) fun rp hrp =>
      .passes (rdRP_total (Laws.operand16_of_stack rp (oneReg_ok hrp).2.2) _ _) fun _ _ =>
      .orRaise (fun _ => push16_wfFault) fun _ hu => .next (push16_answer hu)
  | pop =>
    obtain ⟨hr, hd⟩ := Bool.and_eq_true_iff.mp h
    exact .passes (noData_of hd) fun _ _ => .passes (oneReg_of hr) fun rp hrp =>
      .orRaise (fun _ => pop16_wfFault) fun _ hp =>
      .passes (wrRP_total (Laws.operand16_of_stack rp (oneReg_ok hrp).2.2) _ _ _) fun _ hu =>
      .next ((wrRP_answer hu).trans (pop16_answer hp))
  | mvi =>
    obtain ⟨hr, hd⟩ := Bool.and_eq_true_iff.mp h
    exact .passes (byteData_of hd) fun _ _ => .passes (oneReg_of hr) fun _ hop =>
      .orRaise (fun _ => wr8_wfFault (oneReg_ok hop).2.2) fun _ hu => .next (wr8_answer hu)
  | inr | dcr =>
    obtain ⟨hr, hd⟩ := Bool.and_eq_true_iff.mp h
    exact .passes (noData_of hd) fun _ _ => .passes (sourceReg_of hr) fun _ hop =>
      .orRaise (fun _ => rd8_wfFault (sourceReg_ok hop).2.2) fun _ _ =>
      .orRaise (fun _ => wr8_wfFault (sourceReg_ok hop).2.2) fun _ hu => .next (wr8_answer hu :)
  | add | sub | ana | xra =>
    obtain ⟨hr, hd⟩ := Bool.and_eq_true_iff.mp h
    exact .passes (noData_of hd) fun _ _ => .passes (sourceReg_of hr) fun _ hop =>
      .orRaise (fun _ => rd8_wfFault (sourceReg_ok hop).2.2) fun _ _ => .next rfl
  | mov =>
    obtain ⟨hr, hd⟩ := Bool.and_eq_true_iff.mp h
    exact .passes (noData_of hd) fun _ _ => .passes (movRegs_of hr) fun _ hp =>
      .orRaise (fun _ => rd8_wfFault (movRegs_operand8 hp).2) fun _ _ =>
      .orRaise (fun _ => wr8_wfFault (movRegs_operand8 hp).1) fun _ hu => .next (wr8_answer hu)
  | adi | sui | ani | cpi =>
    obtain ⟨hr, hd⟩ := Bool.and_eq_true_iff.mp h
    exact .passes (byteData_of hd) fun _ _ => .passes (noRegs_of hr) fun _ _ => .next rfl
  | out =>
    obtain ⟨hr, hd⟩ := Bool.and_eq_true_iff.mp h
    exact .passes (byteData_of hd) fun _ _ => .passes (noRegs_of hr) fun _ _ =>
      .orRaise (fun _ => ioWrite_wfFault) fun _ hu => .next (ioWrite_answer hu)
  | inp =>
    obtain ⟨hr, hd⟩ := Bool.and_eq_true_iff.mp h
    exact .passes (byteData_of hd) fun _ _ => .passes (noRegs_of hr) fun _ _ =>
      .orRaise (fun _ => ioRead_wfFault) fun _ hp => .next (ioRead_answer hp)
  | sta =>
    obtain ⟨hr, hd⟩ := Bool.and_eq_true_iff.mp h
    exact .passes (wordData_of hd) fun _ _ => .passes (noRegs_of hr) fun _ _ =>
      .orRaise (fun _ => memWrite_wfFault) fun _ hu => .next (memWrite_answer hu)
  | lda =>
    obtain ⟨hr, hd⟩ := Bool.and_eq_true_iff.mp h
    exact .passes (wordData_of hd) fun _ _ => .passes (noRegs_of hr) fun _ _ =>
      .orRaise (fun _ => memRead_wfFault) fun _ _ => .next rfl
  | jmp =>
    obtain ⟨hr, hd⟩ := Bool.and_eq_true_iff.mp h
    exact .passes (wordData_of hd) fun _ _ => .passes (noRegs_of hr) fun _ _ => .next rfl
  | jz | jnz | jnc =>
    obtain ⟨hr, hd⟩ := Bool.and_eq_true_iff.mp h
    exact .passes (wordData_of hd) fun _ _ => .passes (noRegs_of hr) fun _ _ =>
      .next (by split <;> rfl)
  | call =>
    obtain ⟨hr, hd⟩ := Bool.and_eq_true_iff.mp h
    exact .passes (wordData_of hd) fun _ _ => .passes (noRegs_of hr) fun _ _ =>
      .orRaise (fun _ => push16_wfFault) fun _ hu => .next (push16_answer hu :)

/-- Settles O8: an error with which the machine stops, or that it reports and did not report before, is one of
`WfFault`; only a recoverable one is reported. -/
theorem wellFormedInstructionRaisesNoRecordError :
    Obligations.WellFormedInstructionRaisesNoRecordError := by
  unfold Obligations.WellFormedInstructionRaisesNoRecordError
  intro i s hi
  have hout := exec_wfOutcome hi s
  refine ⟨fun e hfault => ?_, fun t e hnext ht hs => ?_⟩
  · rw [hfault] at hout
    cases hout.of_fault with
    | address a => exact .inl ⟨a, rfl⟩
    | port p d => exact .inr (.inl ⟨p, d, rfl⟩)
    | unimpl hu => exact .inr (.inr ⟨_, hu, rfl⟩)
  · rw [hnext] at hout
    obtain ⟨he, hterminal⟩ := hout.of_error ht hs
    cases he with
    | address a => cases hterminal
    | port p d => exact .inl ⟨p, d, rfl⟩
    | unimpl hu => exact .inr ⟨_, hu, rfl⟩

end Sys2Proof.Machine
end

section
/-! SUPPORT. What the memory holds after a program image is loaded (spec/70_reset_and_hazards.md R303), and the
statements about reset and loading. -/

namespace Sys2Proof.Machine

/-- Loading byte by byte: the first byte is written where the address is below 2^16, the rest go one address up. -/
theorem Memory.load_cons (m : Memory) (k : Nat) (v : Byte) (vs : List Byte) :
    m.load k (v :: vs) = (if k < 65536 then m.write k v else m).load (k + 1) vs := rfl

/-- Loading leaves every address outside the image's range alone, in any list. -/
theorem Memory.read_load_outside (m : Memory) {k j : Nat} (vs : List Byte)
    (hj : j < k ∨ k + vs.length ≤ j) : (m.load k vs).read j = m.read j := by
  induction vs generalizing m k with
  | nil => rfl
  | cons v vs ih =>
    rw [List.length_cons] at hj
    rw [Memory.load_cons, ih _ (by omega)]
    split
    · exact Memory.read_write_other m v (by omega)
    · rfl

/-- Loading into a canonical memory puts byte `i` of the image `i` addresses above its base. -/
theorem Memory.read_load_inside {m : Memory} (hm : m.wf = true) {k i : Nat} {vs : List Byte}
    (hi : i < vs.length) (hk : k + i < 65536) : (m.load k vs).read (k + i) = vs[i] := by
  induction vs generalizing m k i with
  | nil => exact absurd hi (Nat.not_lt_zero i)
  | cons v vs ih =>
    have hbase : k < 65536 := by omega
    rw [Memory.load_cons, if_pos hbase]
    cases i with
    | zero =>
      rw [Memory.read_load_outside _ vs (by omega), Memory.read_write hm]
      exact if_pos rfl
    | succ i =>
      have hnext : k + (i + 1) = k + 1 + i := by omega
      rw [hnext]
      exact ih (Memory.wf_write hm hbase) (Nat.lt_of_succ_lt_succ hi) (by omega)

/-! ## Loading into a machine -/

@[simp] theorem State.loadProgram_mem (s : State) (image : List Byte) :
    (s.loadProgram image).mem = s.mem.load 0 image := rfl

@[simp] theorem State.loadProgram_progLen (s : State) (image : List Byte) :
    (s.loadProgram image).params.progLen = image.length := rfl

theorem State.loadProgram_inv {s : State} (hs : s.Inv) (image : List Byte) :
    (s.loadProgram image).Inv := Memory.wf_load hs 0 image

/-- Settles O55: the image is loaded from address 0 on, so its byte `i` is read inside the loaded range, and the
addresses from its length on lie outside. -/
theorem loadedProgramIsReadable : Obligations.LoadedProgramIsReadable := by
  unfold Obligations.LoadedProgramIsReadable
  intro s image hs
  refine ⟨State.loadProgram_inv hs image, State.loadProgram_progLen s image, fun i hi hlt => ?_,
    fun k hk => ?_⟩
  · have hread := Memory.read_load_inside (k := 0) hs hi (by omega)
    rwa [Nat.zero_add, ← State.loadProgram_mem] at hread
  · rw [State.loadProgram_mem, Memory.read_load_outside s.mem image (.inr (by omega))]

/-! ## Reset -/

@[simp] theorem State.reset_mem : State.reset.mem = [] := rfl

/-- Settles O54: reset memory lists no cell. -/
theorem resetMemoryIsCanonical : Obligations.ResetMemoryIsCanonical := by
  unfold Obligations.ResetMemoryIsCanonical State.Inv
  rw [State.reset_mem]
  exact Memory.wf_nil

end Sys2Proof.Machine
end
